-- ==== Sys2Proof/Word.lean ====
section
/-! DEFINITION. The bit-vector types of the FloatCodec ports (00_scope.md R7, R8; 10_state.md R17, R18)
and the two precisions of its one numeric standard (R2, R48). -/

namespace Sys2Proof

/-- One ASCII character of HEX or BIN, and one byte of a layout (R34, R79). -/
abbrev Byte := BitVec 8

/-- A binary32 layout (R13). -/
abbrev Word32 := BitVec 32

/-- A binary64 value or layout, and the contents of `DATA_IN` and `LAYOUT` (R14, R17, R18). -/
abbrev Word64 := BitVec 64

/-- The word the host writes to `CMD` (R46). -/
abbrev CmdWord := BitVec 8

/-- `Single` (suffix `.S`, binary32) or `Double` (suffix `.D`, binary64) (R1, R2, R11). -/
inductive Precision where
  | single
  | double
deriving DecidableEq, Repr

end Sys2Proof
end

