-- ==== Sys2Proof/Syntax.lean ====
section
/-! DEFINITION. The commands of the block, one constructor per row of spec/opcode_table.json (30_encoding.md
R47, R51). A command names no register and carries no immediate: its operand is `DATA_IN` (R21, R49). -/

namespace Sys2Proof

inductive Instr where
  | convertS      -- CONVERT.S, R89
  | convertD      -- CONVERT.D, R90
  | encodeS       -- ENCODE.S, R56
  | encodeD       -- ENCODE.D, R55
  | decomposeS    -- DECOMPOSE.S, R74
  | decomposeD    -- DECOMPOSE.D, R75
  | renderHexS    -- RENDER_HEX.S, R81
  | renderHexD    -- RENDER_HEX.D, R82
  | renderBinS    -- RENDER_BIN.S, R84
  | renderBinD    -- RENDER_BIN.D, R85
deriving DecidableEq, Repr

end Sys2Proof
end

