-- ==== Sys2Proof/WellFormed.lean ====
section
/-! DEFINITION. When the three fields of a command word make a legal command (30_encoding.md R46, R50). -/

namespace Sys2Proof

/-- The command word as its fields `{RSV, P, OP}` (R46). -/
structure CmdFields where
  rsv  : BitVec 4
  prec : BitVec 1
  op   : BitVec 3
deriving DecidableEq, Repr

/-- `RSV` must be 0000 (R46). -/
def CmdFields.rsvOk (f : CmdFields) : Bool := decide (f.rsv = 0)

/-- `OP` must be 0 to 4; 5, 6 and 7 are reserved (R47). -/
def CmdFields.opOk (f : CmdFields) : Bool := decide (f.op.toNat < 5)

/-- A legal command word: neither illegal case of R50 holds. Both values of `P` are legal (R24). -/
def CmdFields.wellFormed (f : CmdFields) : Bool := f.rsvOk && f.opOk

end Sys2Proof
end

