-- ==== Sys2Proof/Decode.lean ====
section
/-! DEFINITION. Decoding and encoding of the 8-bit command word (30_encoding.md R46 to R52). Every one of the 256
words decodes to a command or is rejected by the name of the rule it breaks (R50). -/

namespace Sys2Proof

/-- Why a command word is illegal (R50). `RSV` is looked at first, as in R52; both give one effect (R93). -/
inductive DecodeError where
  | reservedBits (rsv : BitVec 4)   -- RSV ≠ 0
  | reservedOp (op : BitVec 3)      -- OP is 5, 6 or 7
deriving DecidableEq, Repr

/-- The fields of a command word: `RSV = c[7:4]`, `P = c[3]`, `OP = c[2:0]` (R46). -/
def splitWord (c : CmdWord) : CmdFields :=
  { rsv := c.extractLsb' 4 4, prec := c.extractLsb' 3 1, op := c.extractLsb' 0 3 }

/-- The command word `{RSV, P, OP}` (R51). -/
def joinFields (f : CmdFields) : CmdWord := f.rsv ++ f.prec ++ f.op

/-- `P = 0` selects `Single`, `P = 1` selects `Double` (R48). -/
def precisionOfBit (b : BitVec 1) : Precision := if b = 0 then .single else .double

/-- The operation that `OP` selects (R47), at the precision that `P` selects. -/
def instrOfOp (op : BitVec 3) (p : Precision) : Except DecodeError Instr :=
  match op.toNat, p with
  | 0, .single => .ok .convertS
  | 0, .double => .ok .convertD
  | 1, .single => .ok .encodeS
  | 1, .double => .ok .encodeD
  | 2, .single => .ok .decomposeS
  | 2, .double => .ok .decomposeD
  | 3, .single => .ok .renderHexS
  | 3, .double => .ok .renderHexD
  | 4, .single => .ok .renderBinS
  | 4, .double => .ok .renderBinD
  | _, _       => .error (.reservedOp op)

/-- The legality check and the selection of R52. -/
def decode (c : CmdWord) : Except DecodeError Instr :=
  let f := splitWord c
  if f.rsv = 0 then instrOfOp f.op (precisionOfBit f.prec) else .error (.reservedBits f.rsv)

/-- A decoder for the host's reading of the opcode table. "Every command is exactly one 8-bit word" (R46), so a
word of another length is no command. -/
def decodeTableWord (nbits w : Nat) : Option Instr :=
  if nbits = 8 ∧ w < 256 then (decode (BitVec.ofNat 8 w)).toOption else none

/-- The fields of a command, from the tables of R47 (`OP`) and R48 (`P`). -/
def Instr.fields : Instr → CmdFields
  | .convertS   => { rsv := 0, prec := 0, op := 0 }
  | .convertD   => { rsv := 0, prec := 1, op := 0 }
  | .encodeS    => { rsv := 0, prec := 0, op := 1 }
  | .encodeD    => { rsv := 0, prec := 1, op := 1 }
  | .decomposeS => { rsv := 0, prec := 0, op := 2 }
  | .decomposeD => { rsv := 0, prec := 1, op := 2 }
  | .renderHexS => { rsv := 0, prec := 0, op := 3 }
  | .renderHexD => { rsv := 0, prec := 1, op := 3 }
  | .renderBinS => { rsv := 0, prec := 0, op := 4 }
  | .renderBinD => { rsv := 0, prec := 1, op := 4 }

/-- A command is well formed when its fields are. -/
def Instr.wellFormed (i : Instr) : Bool := i.fields.wellFormed

/-- The word the host writes to `CMD` to issue a command (R51). -/
def encode (i : Instr) : CmdWord := joinFields i.fields

end Sys2Proof
end

