-- ==== Sys2Proof/Config.lean ====
section
/-! DEFINITION. What is fixed for a machine: the parameters the source fixes (00_scope.md R5) and the two
the spec leaves OPEN (R6): `NARROW_NAN` (40_encode.md R62) and `N_INSTANCES` (60_exceptions.md R106).
The open ones are constants without a body, so no proof can learn a value of them. -/

namespace Sys2Proof

/-- N, the layout width in bits (R5). -/
def Precision.width : Precision → Nat
  | .single => 32
  | .double => 64

/-- WE, the exponent field width (R5). -/
def Precision.expWidth : Precision → Nat
  | .single => 8
  | .double => 11

/-- WM, the mantissa field width (R5). -/
def Precision.mantWidth : Precision → Nat
  | .single => 23
  | .double => 52

/-- BIAS (R5). -/
def Precision.bias : Precision → Nat
  | .single => 127
  | .double => 1023

/-- EMAX_RAW, the all-ones raw exponent, `2^WE - 1` (R5). -/
def Precision.rawExpMax (p : Precision) : Nat := 2 ^ p.expWidth - 1

/-- The buffer size in bytes, `N/8` (R5, 20_memory.md R33). -/
def Precision.bufferBytes (p : Precision) : Nat := p.width / 8

namespace Config

/-- The sign bit of `NARROW_NAN(d)` of one instance, open (R62, R63, decision D8): log entry 8. -/
opaque narrowNanSign : Nat → Word64 → Bool

/-- The mantissa field of `NARROW_NAN(d)` of one instance, less one. R62 asks only that the field is not zero,
so the 2^23 - 1 values of the type are exactly the fields it allows: log entry 8. -/
opaque narrowNanMantPred : Nat → Word64 → Fin 8388607

/-- `N_INSTANCES` less one, open (R6, R106, decision D24): log entry 10. -/
opaque extraInstances : Nat

/-- `N_INSTANCES`, at least one (R6). -/
def nInstances : Nat := extraInstances + 1

end Config
end Sys2Proof
end

