-- ==== Sys2Proof/Machine/State.lean ====
section
/-! DEFINITION. The state of one FloatCodec instance and of the host that drives it (10_state.md), the ways a step
can stop (60_exceptions.md section 1), and the state after reset (R31, R109). -/

namespace Sys2Proof.Machine

/-- The result registers of R18, by name. -/
inductive ResultReg where
  | status | width | layout | sign | rawexp | bias | actexp | mant
  | cls        -- CLASS
  | special | implicit
  | abs
  | hex | hexLen | bin | binLen
deriving DecidableEq, Repr

/-- Why the model stops with a fault. Both are the spec's own MODEL FAULTS (R92): no chip-visible code. -/
inductive Fault where
  /-- Raised by a legal `CMD` write, whose word is `cmd`, while `DATA_IN` has no value (R52, R94); it
  "stops the model" (R100; 93_implementation_defined.md U3: `fault`).
  Safe: the model gives no value where the block would compute on whatever its input latch holds. -/
  | unwrittenOperand (cmd : CmdWord)
  /-- Raised by `PortRead(r)` of a result register that is not valid (R29, R95); it "stops the model" (R100;
  93_implementation_defined.md U2: `fault` on read, "Never `any value`").
  Safe: no claim can rest on a stale or reset value. -/
  | readInvalid (r : ResultReg)
deriving DecidableEq, Repr

/-- Why the model refuses a step. -/
inductive Refusal where
  /-- Raised by an arm of exec whose instruction has no meaning yet; no arm does. Safe. -/
  | notModelled (mnemonic : String)
  /-- Raised by a host read of `CMD`: "has no meaning and is refused by the model" (R24, decision D28). Safe. -/
  | readOfCmd
  /-- Raised by the platform when a host action names an instance that does not exist (R106). Safe. -/
  | noSuchInstance (k : Nat)
deriving DecidableEq, Repr

/-- `HEX[0..15]` and `HEX_LEN`: written, invalidated and moved together (R18, R19, R38): log entry 12. -/
structure HexReg where
  bytes : Vector Byte 16
  len   : BitVec 5
deriving DecidableEq, Repr

/-- `BIN[0..65]` and `BIN_LEN`: written, invalidated and moved together (R18, R19, R38): log entry 12. -/
structure BinReg where
  bytes : Vector Byte 66
  len   : BitVec 7
deriving DecidableEq, Repr

/-- Every result register of R18 but `STATUS`. `none` is the clear valid bit of R20: the register "holds no defined
value", which is the spec's own state and not a missing reset value (log entry 1). -/
structure Results where
  width    : Option (BitVec 1)    -- WIDTH
  layout   : Option Word64        -- LAYOUT
  sign     : Option (BitVec 1)    -- SIGN
  rawexp   : Option (BitVec 11)   -- RAWEXP
  bias     : Option (BitVec 11)   -- BIAS
  actexp   : Option (BitVec 12)   -- ACTEXP, two's complement
  mant     : Option (BitVec 52)   -- MANT
  cls      : Option (BitVec 3)    -- CLASS
  special  : Option (BitVec 1)    -- SPECIAL
  implicit : Option (BitVec 2)    -- IMPLICIT
  abs      : Option Word64        -- ABS
  hex      : Option HexReg        -- HEX, HEX_LEN
  bin      : Option BinReg        -- BIN, BIN_LEN
deriving DecidableEq, Repr

/-- No result register but `STATUS` is valid: the state after reset (R31) and at the start of a command (R20). -/
def Results.invalid : Results :=
  { width := none, layout := none, sign := none, rawexp := none, bias := none, actexp := none, mant := none,
    cls := none, special := none, implicit := none, abs := none, hex := none, bin := none }

/-- What a `PortRead` returns: a whole register (R38). -/
inductive PortValue where
  | word (w : Nat) (v : BitVec w)
  | hexString (h : HexReg)
  | binString (b : BinReg)
deriving DecidableEq, Repr

/-- One value the host has read, with the register it read. -/
structure ReadRecord where
  reg   : ResultReg
  value : PortValue
deriving DecidableEq, Repr

/-- What the host can do (R27): its three actions, and the read of `CMD` that R24 names in order to refuse it. It has
no move that submits non-numeric text (R96). -/
inductive HostAction where
  | writeData (v : Word64)    -- PortWrite(DATA_IN, v)
  | writeCmd (c : CmdWord)    -- PortWrite(CMD, c)
  | read (r : ResultReg)      -- PortRead(r)
  | readCmd                   -- PortRead(CMD)
deriving DecidableEq, Repr

/-- What can reach the block from outside: a host action, or a reset, which "may come at any time between host
actions" (R109). -/
inductive Event where
  | host (a : HostAction)
  | reset
deriving DecidableEq, Repr

/-- `STATUS` codes (R24); 3 is never produced. -/
def statusNone : BitVec 2 := 0

@[inherit_doc statusNone] def statusDone : BitVec 2 := 1

@[inherit_doc statusNone] def statusIllegalCmd : BitVec 2 := 2

/-- One instance of the block, and the host's side of its ports. -/
structure State where
  /-- `DATA_IN`; `none` before the first write since reset (R17, R31). -/
  dataIn   : Option Word64
  /-- `STATUS`, always valid (R18, R24). -/
  status   : BitVec 2
  /-- The other result registers with their valid bits (R18, R20). -/
  results  : Results
  /-- The model's own: which instance this is, selecting its fixed `NARROW_NAN` (R26, R31, R106). No register of
  the block holds it: log entry 9. -/
  instNo   : Nat
  /-- The model's own: what the outside will do next, oldest first (R22, R27, R28): log entry 3. -/
  pending  : List Event
  /-- The model's own: what the host's reads have returned, oldest first (R29): log entry 4. -/
  received : List ReadRecord
  /-- The model's fault record (R92, R94, R95, R101): log entry 5. -/
  faults   : List Fault
deriving DecidableEq, Repr

/-- Right after reset (R31, R109): `DATA_IN` unwritten, `STATUS = NONE`, every other result register invalid. -/
def State.reset : State :=
  { dataIn := none, status := statusNone, results := Results.invalid, instNo := 0, pending := [], received := [],
    faults := [] }

end Sys2Proof.Machine
end

