-- ==== Sys2Proof/Machine/Operands.lean ====
section
/-! DEFINITION. How an operand is formed from `DATA_IN` (30_encoding.md R49, 20_memory.md R36), the fields of a
layout (10_state.md R13 to R15, 41_decompose.md R68) and its bytes (20_memory.md R34). A layout of either precision
is held zero-extended to 64 bits, as `LAYOUT` holds it (R18). -/

namespace Sys2Proof.Machine

/-- The `value` operand of CONVERT and ENCODE: all 64 bits, for both precisions (R49). -/
def valueOperand (d : Word64) : Word64 := d

/-- The `layout` operand of DECOMPOSE, RENDER_HEX and RENDER_BIN, zero-extended: `DATA_IN[31:0]` for `.S`,
`DATA_IN[63:0]` for `.D` (R49). -/
def layoutOperand (p : Precision) (d : Word64) : Word64 :=
  match p with
  | .single => (d.extractLsb' 0 32).setWidth 64
  | .double => d

/-- `sign(L) = L[N-1]` (R15, R68). -/
def signField (p : Precision) (l : Word64) : BitVec 1 := l.extractLsb' (p.width - 1) 1

/-- `zext_11(rawexp(L))`, where `rawexp(L) = L[N-2 : WM]` (R15, R68). -/
def rawExpField (p : Precision) (l : Word64) : BitVec 11 := (l.extractLsb' p.mantWidth p.expWidth).setWidth 11

/-- `zext_52(mant(L))`, where `mant(L) = L[WM-1 : 0]` (R15, R68). -/
def mantField (p : Precision) (l : Word64) : BitVec 52 := (l.extractLsb' 0 p.mantWidth).setWidth 52

/-- Byte k of a layout, byte 0 the most significant: `L[N-1-8k : N-8-8k]` (R34). -/
def layoutByte (p : Precision) (l : Word64) (k : Nat) : Byte := l.extractLsb' (p.width - 8 - 8 * k) 8

/-- The code of a precision in `WIDTH` (R18). -/
def widthCode : Precision → BitVec 1
  | .single => 0
  | .double => 1

/-- The bits of a field of width `w`, most significant first: how the host reads the "exponent bit string"
`RAWEXP[WE-1:0]` and the "mantissa bit string" `MANT[WM-1:0]` (R18, decision D10). -/
def bitString (w : Nat) {n : Nat} (v : BitVec n) : List Bool := (List.range w).map fun i => v.getLsbD (w - 1 - i)

/-- The exponent bit string of §6, from the register `RAWEXP` (R18). -/
def expBitString (p : Precision) (rawexp : BitVec 11) : List Bool := bitString p.expWidth rawexp

/-- The mantissa bit string of §6, from the register `MANT` (R18). -/
def mantBitString (p : Precision) (mant : BitVec 52) : List Bool := bitString p.mantWidth mant

end Sys2Proof.Machine
end

