-- ==== Sys2Proof/Machine/Flags.lean ====
section
/-! DEFINITION. The block keeps no condition code and produces no IEEE exception flag (10_state.md R23, 60_exceptions.md
R97). What it computes about a layout beside its fields is the class and the registers that follow from the class
(41_decompose.md R69 to R73). -/

namespace Sys2Proof.Machine

/-- The five tags of §3 (R11, R69). -/
inductive Classification where
  | zero | denormalized | normalized | infinity | nan
deriving DecidableEq, Repr

/-- "A pure function of (raw exponent, mantissa bits)" (R69). -/
def classify (p : Precision) (rawexp : BitVec 11) (mant : BitVec 52) : Classification :=
  if rawexp.toNat = 0 then
    if mant = 0 then .zero else .denormalized
  else if rawexp.toNat = p.rawExpMax then
    if mant = 0 then .infinity else .nan
  else .normalized

/-- The class of a layout. -/
def classOf (p : Precision) (l : Word64) : Classification := classify p (rawExpField p l) (mantField p l)

/-- The `CLASS` code (R69). -/
def classCode : Classification → BitVec 3
  | .zero         => 0
  | .denormalized => 1
  | .normalized   => 2
  | .infinity     => 3
  | .nan          => 4

/-- The `IMPLICIT` code (R72). -/
def implicitCode : Classification → BitVec 2
  | .normalized   => 1
  | .denormalized => 0
  | .zero         => 0
  | .infinity     => 2
  | .nan          => 2

/-- `SPECIAL`: 1 for every class but `Normalized` (R73). -/
def specialFlag (c : Classification) : BitVec 1 := if c = .normalized then 0 else 1

/-- `BIAS` as an 11-bit unsigned value (R71). -/
def biasCode (p : Precision) : BitVec 11 := BitVec.ofNat 11 p.bias

/-- `ACTEXP`: the 12-bit two's-complement form of `rawexp - BIAS`, for every class (R70). -/
def actualExp (p : Precision) (rawexp : BitVec 11) : BitVec 12 :=
  BitVec.ofInt 12 ((rawexp.toNat : Int) - (p.bias : Int))

end Sys2Proof.Machine
end

