-- ==== Sys2Proof/Machine/Ops.lean ====
section
/-! DEFINITION. The shared operations over the ports and registers: the start and the end of a command
(30_encoding.md R52, 10_state.md R20), the illegal command, which is the block's one architectural error
(60_exceptions.md R93; there is no trap and no return from one, R100, R101), the write and the read of a result
register (R9, R29), and the model's fault record (R92). The block has no memory and no general register (R21, R32). -/

namespace Sys2Proof.Machine

/-- `invalidate(r)` for every result register but `STATUS` (R20, R52). -/
def State.invalidateResults (s : State) : State := { s with results := Results.invalid }

/-- The results a command has written, and `STATUS <- DONE` (R52). -/
def State.complete (r : Results) (s : State) : State := { s with results := r, status := statusDone }

/-- `IllegalCommand` (R93): every result invalid, `STATUS <- ILLEGAL_CMD`, nothing else. -/
def illegalCommand (s : State) : State := { s.invalidateResults with status := statusIllegalCmd }

/-- A legal command from its start to its end (R52): invalidate the results, raise `UnwrittenOperand` where `DATA_IN`
has no value, else let the operation write its registers, then `STATUS <- DONE`. -/
def runCommand (c : CmdWord) (op : Word64 → Results → Results) (s : State) : Host.Outcome State Fault Refusal :=
  let s0 := s.invalidateResults
  match s0.dataIn with
  | none => .fault (.unwrittenOperand c)
  | some d => .next (s0.complete (op d s0.results))

/-- `LAYOUT <- L; WIDTH <- (p == Double)` (R55, R56, R74, R75, R81 to R87); `L` is zero-extended. -/
def Results.writeLayout (p : Precision) (l : Word64) (r : Results) : Results :=
  { r with layout := some l, width := some (widthCode p) }

/-- The register `r` as a read moves it, if its valid bit is set (R29, R38). `STATUS` is always valid. -/
def State.readReg (r : ResultReg) (s : State) : Option PortValue :=
  match r with
  | .status   => some (.word 2 s.status)
  | .width    => s.results.width.map (.word 1)
  | .layout   => s.results.layout.map (.word 64)
  | .sign     => s.results.sign.map (.word 1)
  | .rawexp   => s.results.rawexp.map (.word 11)
  | .bias     => s.results.bias.map (.word 11)
  | .actexp   => s.results.actexp.map (.word 12)
  | .mant     => s.results.mant.map (.word 52)
  | .cls      => s.results.cls.map (.word 3)
  | .special  => s.results.special.map (.word 1)
  | .implicit => s.results.implicit.map (.word 2)
  | .abs      => s.results.abs.map (.word 64)
  | .hex      => s.results.hex.map .hexString
  | .hexLen   => s.results.hex.map fun h => .word 5 h.len
  | .bin      => s.results.bin.map .binString
  | .binLen   => s.results.bin.map fun b => .word 7 b.len

/-- The next event has been taken from the outside. -/
def State.withPending (es : List Event) (s : State) : State := { s with pending := es }

/-- `DATA_IN <- v` (R28). -/
def State.withDataIn (v : Word64) (s : State) : State := { s with dataIn := some v }

/-- The host has got the value of a read. The block is as before (R29). -/
def State.logRead (x : ReadRecord) (s : State) : State := { s with received := s.received ++ [x] }

/-- A reset puts every piece of the block's state into its value of R31. The parameters stay (R110); the host, and
the fault record, which is never cleared (R101), are outside it (log entry 13). -/
def State.resetBlock (s : State) : State :=
  { s with dataIn := State.reset.dataIn, status := State.reset.status, results := State.reset.results }

/-- "The model records the fault" (R94, R95). R52 invalidates the results before it raises `UnwrittenOperand`, and
leaves `STATUS` (log entry 5). -/
def State.recordFault (f : Fault) (s : State) : State :=
  match f with
  | .unwrittenOperand _ => { s with results := Results.invalid, faults := s.faults ++ [f] }
  | .readInvalid _      => { s with faults := s.faults ++ [f] }

end Sys2Proof.Machine
end

