-- ==== Sys2Proof/Machine/Decompose.lean ====
section
/-! DEFINITION. DECOMPOSE (41_decompose.md R74, R75). -/

namespace Sys2Proof.Machine

/-- The eight registers that describe a layout `L`: the lines `SIGN` to `SPECIAL` of R74, R75 and R87. -/
def Results.writeFields (p : Precision) (l : Word64) (r : Results) : Results :=
  let e := rawExpField p l
  let c := classOf p l
  { r with
    sign     := some (signField p l)
    rawexp   := some e
    bias     := some (biasCode p)
    actexp   := some (actualExp p e)
    mant     := some (mantField p l)
    cls      := some (classCode c)
    implicit := some (implicitCode c)
    special  := some (specialFlag c) }

/-- What DECOMPOSE writes. -/
def decomposeOp (p : Precision) (d : Word64) (r : Results) : Results :=
  (r.writeLayout p (layoutOperand p d)).writeFields p (layoutOperand p d)

/-- DECOMPOSE.S (R74). -/
def execDecomposeS (s : State) : Host.Outcome State Fault Refusal :=
  runCommand (encode .decomposeS) (decomposeOp .single) s

/-- DECOMPOSE.D (R75). -/
def execDecomposeD (s : State) : Host.Outcome State Fault Refusal :=
  runCommand (encode .decomposeD) (decomposeOp .double) s

end Sys2Proof.Machine
end

