-- ==== Sys2Proof/Machine/Narrow.lean ====
section
/-! DEFINITION. The exact binary64 to binary32 narrowing (40_encode.md R57 to R63), on unbounded integers (R8, R10). -/

namespace Sys2Proof.Machine

/-- `{s, e, m}` as a binary32 layout (R13, R15). -/
def pack32 (s : BitVec 1) (e : BitVec 8) (m : BitVec 23) : Word32 := s ++ e ++ m

/-- The binary32 infinity of a sign (R58). -/
def infinity32 (s : BitVec 1) : Word32 := pack32 s 0xFF 0

/-- The magnitude `(M, e)` of a finite non-zero binary64 operand: `|value| = M * 2^e` exactly (R58). -/
def magnitude64 (rawexp mant : Nat) : Nat × Int :=
  if rawexp = 0 then (mant, -1074) else (2 ^ 52 + mant, (rawexp : Int) - 1075)

/-- Position of the top set bit, plus one (R57); used for `M ≥ 1` only. -/
def bitLength (m : Nat) : Nat := m.log2 + 1

/-- `q = max(e + n - 24, -149)` (R60). -/
def targetQuantum (m : Nat) (e : Int) : Int := max (e + bitLength m - 24) (-149)

/-- `RNE_shift(M, sh)`: divide by `2^sh`, round to the nearest integer, ties to even (R59). -/
def rneShift (m sh : Nat) : Nat :=
  let quo  := m / 2 ^ sh
  let rem  := m % 2 ^ sh
  let half := 2 ^ (sh - 1)
  if half < rem ∨ (rem = half ∧ quo % 2 = 1) then quo + 1 else quo

/-- A rounding that carried out to `2^24` is `2^23` at the next quantum (R61). -/
def renormalise (m : Nat) (q : Int) : Nat × Int := if m = 2 ^ 24 then (2 ^ 23, q + 1) else (m, q)

/-- The binary32 layout of `m * 2^q` with its sign: normal, overflowed (R65), or denormal or zero (R66). -/
def packRounded (s : BitVec 1) (m : Nat) (q : Int) : Word32 :=
  if 2 ^ 23 ≤ m then
    if 255 ≤ q + 150 then infinity32 s
    else pack32 s (BitVec.ofInt 8 (q + 150)) (BitVec.ofNat 23 (m - 2 ^ 23))
  else pack32 s 0 (BitVec.ofNat 23 m)

/-- The finite non-zero case of R57. -/
def narrowFinite (s : BitVec 1) (m : Nat) (e : Int) : Word32 :=
  let q  := targetQuantum m e
  let mq := renormalise (rneShift m (q - e).toNat) q
  packRounded s mq.1 mq.2

/-- `narrow32` for one choice of `NARROW_NAN` (R57). -/
def narrow32With (narrowNan : Word64 → Word32) (d : Word64) : Word32 :=
  let s := signField .double d
  let e := (rawExpField .double d).toNat
  let f := (mantField .double d).toNat
  if e = 0x7FF then
    if f = 0 then infinity32 s else narrowNan d
  else if e = 0 ∧ f = 0 then pack32 s 0 0
  else narrowFinite s (magnitude64 e f).1 (magnitude64 e f).2

/-- A binary32 NaN from its sign and its mantissa less one: exactly the patterns R62 allows. -/
def packNan (sign : Bool) (mantPred : Fin 8388607) : Word32 :=
  pack32 (BitVec.ofBool sign) 0xFF (BitVec.ofNat 23 (mantPred.val + 1))

/-- The open parameter `NARROW_NAN` of instance `k` (R6, R62): log entry 8. -/
def narrowNan (k : Nat) (d : Word64) : Word32 := packNan (Config.narrowNanSign k d) (Config.narrowNanMantPred k d)

/-- `NARROW_NAN_default(d) = {d[63], 0xFF, 1, d[50:29]}` (R62). The test vectors assume it; no meaning uses it. -/
def narrowNanDefault (d : Word64) : Word32 := d.extractLsb' 63 1 ++ 0xFF#8 ++ 1#1 ++ d.extractLsb' 29 22

/-- `narrow32(d)` on instance `k` (R57). -/
def narrow32 (k : Nat) (d : Word64) : Word32 := narrow32With (narrowNan k) d

end Sys2Proof.Machine
end

