-- ==== Sys2Proof/Machine/Encode.lean ====
section
/-! DEFINITION. ENCODE (40_encode.md R55, R56). -/

namespace Sys2Proof.Machine

/-- The layout `encode(value, p)` gives on instance `k`: `zext_64(narrow32(value))` for `.S` (R56), the value itself
for `.D` (R55). -/
def encodedLayout (p : Precision) (k : Nat) (v : Word64) : Word64 :=
  match p with
  | .single => (narrow32 k v).setWidth 64
  | .double => v

/-- What ENCODE writes. -/
def encodeOp (p : Precision) (k : Nat) (d : Word64) (r : Results) : Results :=
  r.writeLayout p (encodedLayout p k (valueOperand d))

/-- ENCODE.S (R56). -/
def execEncodeS (s : State) : Host.Outcome State Fault Refusal :=
  runCommand (encode .encodeS) (encodeOp .single s.instNo) s

/-- ENCODE.D (R55). -/
def execEncodeD (s : State) : Host.Outcome State Fault Refusal :=
  runCommand (encode .encodeD) (encodeOp .double s.instNo) s

end Sys2Proof.Machine
end

