-- ==== Sys2Proof/Machine/Render.lean ====
section
/-! DEFINITION. RENDER_HEX and RENDER_BIN (42_render.md R79 to R86). -/

namespace Sys2Proof.Machine

/-- `hexdigit(v)`: the upper-case ASCII hex digit of a nibble (R79). -/
def hexDigit (v : BitVec 4) : Byte := BitVec.ofNat 8 (if v.toNat < 10 then 0x30 + v.toNat else 0x41 + (v.toNat - 10))

/-- `bitchar(b) = 0x30 + b` (R79). -/
def bitChar (b : Bool) : Byte := if b then 0x31 else 0x30

/-- The space of R79. -/
def spaceChar : Byte := 0x20

/-- A string register: the characters from index 0 on, then bytes 0x00 (R35, R79, R80, R83). -/
def fillString (n : Nat) (chars : List Byte) : Vector Byte n := Vector.ofFn fun i => chars.getD i.val 0

/-- The hex string: two digits per byte, most significant byte first (R80). -/
def hexChars (p : Precision) (l : Word64) : List Byte :=
  (List.range p.bufferBytes).flatMap fun k =>
    [hexDigit ((layoutByte p l k).extractLsb' 4 4), hexDigit ((layoutByte p l k).extractLsb' 0 4)]

/-- The bits `L[hi-1]` down to `L[hi-n]` as characters (R83). -/
def bitChars (l : Word64) (hi n : Nat) : List Byte := (List.range n).map fun i => bitChar (l.getLsbD (hi - 1 - i))

/-- The grouped binary string: sign, space, exponent, space, mantissa (R83). -/
def binChars (p : Precision) (l : Word64) : List Byte :=
  bitChars l p.width 1 ++ [spaceChar] ++ bitChars l (p.width - 1) p.expWidth ++ [spaceChar] ++
    bitChars l p.mantWidth p.mantWidth

/-- `HEX` and `HEX_LEN = N/4` for a layout (R80). -/
def hexOf (p : Precision) (l : Word64) : HexReg :=
  { bytes := fillString 16 (hexChars p l), len := BitVec.ofNat 5 (p.width / 4) }

/-- `BIN` and `BIN_LEN`, the number of characters written (R83). -/
def binOf (p : Precision) (l : Word64) : BinReg :=
  { bytes := fillString 66 (binChars p l), len := BitVec.ofNat 7 (binChars p l).length }

/-- `hex(p, L)` (R80). -/
def Results.writeHex (p : Precision) (l : Word64) (r : Results) : Results := { r with hex := some (hexOf p l) }

/-- `bin(p, L)` (R83). -/
def Results.writeBin (p : Precision) (l : Word64) (r : Results) : Results := { r with bin := some (binOf p l) }

/-- What RENDER_HEX writes. -/
def renderHexOp (p : Precision) (d : Word64) (r : Results) : Results :=
  (r.writeLayout p (layoutOperand p d)).writeHex p (layoutOperand p d)

/-- What RENDER_BIN writes. -/
def renderBinOp (p : Precision) (d : Word64) (r : Results) : Results :=
  (r.writeLayout p (layoutOperand p d)).writeBin p (layoutOperand p d)

/-- RENDER_HEX.S (R81). -/
def execRenderHexS (s : State) : Host.Outcome State Fault Refusal :=
  runCommand (encode .renderHexS) (renderHexOp .single) s

/-- RENDER_HEX.D (R82). -/
def execRenderHexD (s : State) : Host.Outcome State Fault Refusal :=
  runCommand (encode .renderHexD) (renderHexOp .double) s

/-- RENDER_BIN.S (R84). -/
def execRenderBinS (s : State) : Host.Outcome State Fault Refusal :=
  runCommand (encode .renderBinS) (renderBinOp .single) s

/-- RENDER_BIN.D (R85). -/
def execRenderBinD (s : State) : Host.Outcome State Fault Refusal :=
  runCommand (encode .renderBinD) (renderBinOp .double) s

end Sys2Proof.Machine
end

