-- ==== Sys2Proof/Machine/Convert.lean ====
section
/-! DEFINITION. CONVERT (43_convert.md R87 to R90). -/

namespace Sys2Proof.Machine

/-- `absval(value) = {0, value[62:0]}`: the ORIGINAL binary64 operand with its sign bit cleared (R88). -/
def absVal (v : Word64) : Word64 := 0#1 ++ v.extractLsb' 0 63

/-- `ABS <- absval(value)` (R87). -/
def Results.writeAbs (v : Word64) (r : Results) : Results := { r with abs := some (absVal v) }

/-- `convert(p, value)`, line by line (R87). -/
def convertOp (p : Precision) (k : Nat) (d : Word64) (r : Results) : Results :=
  let v := valueOperand d
  let l := encodedLayout p k v
  ((((r.writeLayout p l).writeFields p l).writeAbs v).writeHex p l).writeBin p l

/-- CONVERT.S (R89). -/
def execConvertS (s : State) : Host.Outcome State Fault Refusal :=
  runCommand (encode .convertS) (convertOp .single s.instNo) s

/-- CONVERT.D (R90). -/
def execConvertD (s : State) : Host.Outcome State Fault Refusal :=
  runCommand (encode .convertD) (convertOp .double s.instNo) s

end Sys2Proof.Machine
end

