-- ==== Sys2Proof/Machine/Dispatch.lean ====
section
/-! DEFINITION. The meaning of each command (the case of 30_encoding.md R52), one arm per constructor. -/

namespace Sys2Proof.Machine

def exec (i : Instr) (s : State) : Host.Outcome State Fault Refusal :=
  match i with
  | .convertS => Sys2Proof.Machine.execConvertS s
  | .convertD => Sys2Proof.Machine.execConvertD s
  | .encodeS => Sys2Proof.Machine.execEncodeS s
  | .encodeD => Sys2Proof.Machine.execEncodeD s
  | .decomposeS => Sys2Proof.Machine.execDecomposeS s
  | .decomposeD => Sys2Proof.Machine.execDecomposeD s
  | .renderHexS => Sys2Proof.Machine.execRenderHexS s
  | .renderHexD => Sys2Proof.Machine.execRenderHexD s
  | .renderBinS => Sys2Proof.Machine.execRenderBinS s
  | .renderBinD => Sys2Proof.Machine.execRenderBinD s

end Sys2Proof.Machine
end

