-- ==== Sys2Proof/Machine/Ports.lean ====
section
/-! DEFINITION. The host's actions on the ports (10_state.md R27 to R29) and the reset (70_reset_and_hazards.md R109). -/

namespace Sys2Proof.Machine

/-- `PortWrite(DATA_IN, v)`: stores the value, no other effect (R28). -/
def portWriteData (v : Word64) (s : State) : Host.Outcome State Fault Refusal := .next (s.withDataIn v)

/-- `PortWrite(CMD, c)`: `execute(c, DATA_IN)` (R28, R52). Legality is checked before the operand (R98). -/
def portWriteCmd (c : CmdWord) (s : State) : Host.Outcome State Fault Refusal :=
  match decode c with
  | .error _ => .next (illegalCommand s)
  | .ok i    => exec i s

/-- `PortRead(r)`: the register if it is valid, else `ReadInvalid`; no side effect on the block (R29, R95). -/
def portRead (r : ResultReg) (s : State) : Host.Outcome State Fault Refusal :=
  match s.readReg r with
  | some v => .next (s.logRead { reg := r, value := v })
  | none   => .fault (.readInvalid r)

/-- A host action. A read of `CMD` is refused (R24). -/
def hostAct (a : HostAction) (s : State) : Host.Outcome State Fault Refusal :=
  match a with
  | .writeData v => portWriteData v s
  | .writeCmd c  => portWriteCmd c s
  | .read r      => portRead r s
  | .readCmd     => .refused .readOfCmd

/-- What an event does to the block. -/
def perform (e : Event) (s : State) : Host.Outcome State Fault Refusal :=
  match e with
  | .host a => hostAct a s
  | .reset  => .next s.resetBlock

/-- The next thing that happens to a model that has recorded no fault: the oldest pending event, as one atomic step
(R28, R41). With none, the block "does no work between commands" (R108): log entry 6. -/
def takeEvent (s : State) : Host.Outcome State Fault Refusal :=
  match s.pending with
  | []      => .next s
  | e :: es => perform e (s.withPending es)

/-- The command word `w` is what the host writes to `CMD` next. A command "is read from `DATA_IN` when `CMD` is
written" (R49) and the host owes a `DATA_IN` write before the first one (R111): where none has been made, the operand
of zeros stands for it (log entry 7). -/
def issueWord (w : Nat) (s : State) : State :=
  { s with
    dataIn  := some (s.dataIn.getD 0)
    pending := .host (.writeCmd (BitVec.ofNat 8 w)) :: s.pending }

end Sys2Proof.Machine
end

