-- ==== Sys2Proof/Machine/Step.lean ====
section
/-! DEFINITION. One step of the model. The block has no program counter and fetches nothing (10_state.md R22): what
runs next is the oldest pending host action. -/

namespace Sys2Proof.Machine

/-- "A model fault stops the model, and it stays in the fault record" (R100, R101); else the next event. -/
def step (s : State) : Host.Outcome State Fault Refusal :=
  match s.faults with
  | f :: _ => .fault f
  | []     => takeEvent s

/-- `s` with the command word `w` as the next `CMD` write, so that the next step runs it. -/
def State.withFetchWord (s : State) (nbits w : Nat) : State := issueWord (w % 2 ^ nbits) s

end Sys2Proof.Machine
end

