-- ==== Sys2Proof/Machine/Platform.lean ====
section
/-! DEFINITION. Several instances (00_scope.md R6, 20_memory.md R42, 60_exceptions.md R106): each has its own ports,
results, valid bits, host queue and reset, and they share no state. -/

namespace Sys2Proof.Machine

/-- Instance `k` right after its reset: it differs from another instance in nothing but its parameter (R106). -/
def State.resetInstance (k : Nat) : State := { State.reset with instNo := k }

/-- The instances of a platform; the place in the list names one, since "an instance has no identifier register". -/
abbrev Platform := List State

/-- All `N_INSTANCES` of them after reset (R6, R109). -/
def Platform.reset : Platform := (List.range Config.nInstances).map State.resetInstance

/-- A step of instance `k`. Which instance steps next is open ("order-insensitive", R42), so `k` is an argument:
log entry 10. -/
def Platform.stepAt (k : Nat) (p : Platform) : Host.Outcome Platform Fault Refusal :=
  match p[k]? with
  | none => .refused (.noSuchInstance k)
  | some s =>
    match step s with
    | .next t => .next (p.set k t)
    | .fault f => .fault f
    | .refused r => .refused r

end Sys2Proof.Machine
end

