-- ==== Sys2Proof/Machine/Script.lean ====
section
/-! DEFINITION. The host script syntax (30_encoding.md R53) and its one pseudo-instruction (R54): one line of text is
read into the events it stands for. -/

namespace Sys2Proof.Machine

/-- A line of a host script. -/
inductive ScriptLine where
  | data (v : Word64)               -- DATA 0x<16 hex digits>
  | command (i : Instr)             -- <MNEMONIC>.<S or D>
  | cmd (c : CmdWord)               -- CMD 0x<2 hex digits>
  | read (r : ResultReg)            -- READ <register>
  | readCmd                         -- READ CMD, which R24 refuses
  | comment                         -- ; text
  | pseudo (i : Instr) (v : Word64) -- <MNEMONIC>.<S or D> 0x<16 hex digits>, R54
deriving DecidableEq, Repr

/-- The actions a line stands for (R53, R54). -/
def ScriptLine.events : ScriptLine → List Event
  | .data v     => [.host (.writeData v)]
  | .command i  => [.host (.writeCmd (encode i))]
  | .cmd c      => [.host (.writeCmd c)]
  | .read r     => [.host (.read r)]
  | .readCmd    => [.host .readCmd]
  | .comment    => []
  | .pseudo i v => [.host (.writeData v), .host (.writeCmd (encode i))]

/-- The mnemonic of a command, with its precision suffix (R47, R48, R51). -/
def mnemonicOf : Instr → String
  | .convertS   => "CONVERT.S"
  | .convertD   => "CONVERT.D"
  | .encodeS    => "ENCODE.S"
  | .encodeD    => "ENCODE.D"
  | .decomposeS => "DECOMPOSE.S"
  | .decomposeD => "DECOMPOSE.D"
  | .renderHexS => "RENDER_HEX.S"
  | .renderHexD => "RENDER_HEX.D"
  | .renderBinS => "RENDER_BIN.S"
  | .renderBinD => "RENDER_BIN.D"

/-- The name of a result register (R18). -/
def ResultReg.name : ResultReg → String
  | .status   => "STATUS"
  | .width    => "WIDTH"
  | .layout   => "LAYOUT"
  | .sign     => "SIGN"
  | .rawexp   => "RAWEXP"
  | .bias     => "BIAS"
  | .actexp   => "ACTEXP"
  | .mant     => "MANT"
  | .cls      => "CLASS"
  | .special  => "SPECIAL"
  | .implicit => "IMPLICIT"
  | .abs      => "ABS"
  | .hex      => "HEX"
  | .hexLen   => "HEX_LEN"
  | .bin      => "BIN"
  | .binLen   => "BIN_LEN"

/-- The ten commands. -/
def allInstrs : List Instr :=
  [.convertS, .convertD, .encodeS, .encodeD, .decomposeS, .decomposeD, .renderHexS, .renderHexD, .renderBinS,
    .renderBinD]

/-- The sixteen result registers. -/
def allRegs : List ResultReg :=
  [.status, .width, .layout, .sign, .rawexp, .bias, .actexp, .mant, .cls, .special, .implicit, .abs, .hex, .hexLen,
    .bin, .binLen]

/-- "Mnemonics and register names are case-sensitive" (R53). -/
def instrOfName (t : List Char) : Option Instr := allInstrs.find? fun i => (mnemonicOf i).toList == t

@[inherit_doc instrOfName] def regOfName (t : List Char) : Option ResultReg :=
  allRegs.find? fun r => r.name.toList == t

/-- A hex digit. The spec writes upper case only; lower case is read too (log entry 14). -/
def hexDigitValue (c : Char) : Option Nat :=
  if 48 ≤ c.toNat ∧ c.toNat ≤ 57 then some (c.toNat - 48)
  else if 65 ≤ c.toNat ∧ c.toNat ≤ 70 then some (c.toNat - 55)
  else if 97 ≤ c.toNat ∧ c.toNat ≤ 102 then some (c.toNat - 87)
  else none

/-- The number the digits write, most significant first. -/
def hexValue : List Char → Nat → Option Nat
  | [], acc      => some acc
  | c :: cs, acc =>
    match hexDigitValue c with
    | some v => hexValue cs (16 * acc + v)
    | none   => none

/-- `0x` and exactly `n` hex digits (R53). -/
def hexNumber (n : Nat) (t : List Char) : Option Nat :=
  match t with
  | '0' :: 'x' :: ds => if ds.length = n then hexValue ds 0 else none
  | _ => none

/-- The words of a line: split at spaces. -/
def splitSpaces : List Char → List Char → List (List Char)
  | [], word => if word = [] then [] else [word.reverse]
  | c :: cs, word =>
    if c = ' ' then (if word = [] then splitSpaces cs [] else word.reverse :: splitSpaces cs [])
    else splitSpaces cs (c :: word)

/-- Read one line of a host script (R53, R54). From `;` on it is a comment, also after an action as the programs of
95_test_vectors.md section 3 have it (log entry 14). -/
def parseLine (line : List Char) : Option ScriptLine :=
  match splitSpaces (line.takeWhile (· ≠ ';')) [] with
  | [] => some .comment
  | [t] => (instrOfName t).map .command
  | [t, arg] =>
    if t = "DATA".toList then (hexNumber 16 arg).map fun v => .data (BitVec.ofNat 64 v)
    else if t = "CMD".toList then (hexNumber 2 arg).map fun c => .cmd (BitVec.ofNat 8 c)
    else if t = "READ".toList then
      (if arg = "CMD".toList then some .readCmd else (regOfName arg).map .read)
    else
      match instrOfName t, hexNumber 16 arg with
      | some i, some v => some (.pseudo i (BitVec.ofNat 64 v))
      | _, _ => none
  | _ => none

/-- The events of a script, line by line; none if a line has no meaning. -/
def scriptEvents : List (List Char) → Option (List Event)
  | [] => some []
  | l :: ls =>
    match parseLine l, scriptEvents ls with
    | some x, some es => some (x.events ++ es)
    | _, _ => none

end Sys2Proof.Machine
end

