-- ==== Sys2Proof/Machine/Value.lean ====
section
/-! DEFINITION. The value a layout denotes (10_state.md R16). No meaning uses it: the narrowing is integer pseudocode
(00_scope.md R10). It is here so that statements can say what the narrowing is worth. The formulas of the normal and
the denormal line are the spec's general knowledge (93_implementation_defined.md G1). -/

namespace Sys2Proof.Machine

/-- What a layout denotes: a signed zero, a non-zero real (all are rational), a signed infinity, or no value. -/
inductive Denoted where
  | zero (negative : Bool)
  | finite (x : ℚ)
  | infinity (negative : Bool)
  | nan
deriving DecidableEq, Repr

/-- `(-1)^s` (R16). -/
def signFactor (negative : Bool) : ℚ := if negative then -1 else 1

/-- The magnitude of a finite non-zero layout: `(F / 2^WM) * 2^(1 - BIAS)` with raw exponent 0, and
`(1 + F / 2^WM) * 2^(E - BIAS)` otherwise (R16). -/
def finiteMagnitude (p : Precision) (rawexp mant : Nat) : ℚ :=
  if rawexp = 0 then ((mant : ℚ) / 2 ^ p.mantWidth) * (2 : ℚ) ^ ((1 : ℤ) - p.bias)
  else (1 + (mant : ℚ) / 2 ^ p.mantWidth) * (2 : ℚ) ^ ((rawexp : ℤ) - p.bias)

/-- The value denoted by a layout (R16). -/
def denote (p : Precision) (l : Word64) : Denoted :=
  let negative := decide (signField p l = 1)
  match classOf p l with
  | .zero => .zero negative
  | .denormalized => .finite (signFactor negative * finiteMagnitude p (rawExpField p l).toNat (mantField p l).toNat)
  | .normalized => .finite (signFactor negative * finiteMagnitude p (rawExpField p l).toNat (mantField p l).toNat)
  | .infinity => .infinity negative
  | .nan => .nan

/-- `value(x)`: "the real number a finite pattern denotes" (R10); none for an infinity or a NaN. -/
def realValue (p : Precision) (l : Word64) : Option ℚ :=
  match denote p l with
  | .zero _ => some 0
  | .finite x => some x
  | .infinity _ => none
  | .nan => none

end Sys2Proof.Machine
end

