-- ==== Sys2Proof/Safety.lean ====
section
/-! DEFINITION. What a safe run is, in the terms of 60_exceptions.md R94, R100 and R101: a run whose fault record is
empty. And the invariant that every step keeps. -/

namespace Sys2Proof.Machine

/-- A step together with the record R92 asks for: a step that ends in a fault takes its event and leaves the fault in
the record; a model that has stopped stays as it is ("model faults are never cleared", R101). A refused step changes
nothing. -/
def advance (s : State) : State :=
  match step s with
  | .next t => t
  | .fault f =>
    match s.faults with
    | []     => (s.withPending s.pending.tail).recordFault f
    | _ :: _ => s
  | .refused _ => s

/-- `n` steps with their record. -/
def runRecorded : Nat → State → State
  | 0, s     => s
  | n + 1, s => runRecorded n (advance s)

/-- A final state: the host has nothing more to do, and no fault is recorded ("the faulted state is never a final
state", R94). -/
def State.Final (s : State) : Prop := s.pending = [] ∧ s.faults = []

/-- A safe run of `n` steps: no fault is ever recorded (R101: "a claim assumes that none is recorded"). -/
def SafeRun (n : Nat) (s : State) : Prop := ∀ k, k ≤ n → (runRecorded k s).faults = []

/-- The registers `SIGN` to `SPECIAL` are all invalid, or describe the layout `l` at precision `p` (R19, R68 to R73). -/
def FieldsDescribe (p : Precision) (l : Word64) (r : Results) : Prop :=
  r = { r with sign := none, rawexp := none, bias := none, actexp := none, mant := none, cls := none,
               special := none, implicit := none } ∨
  r = r.writeFields p l

/-- The valid registers of a completed command are those of ONE command on ONE layout: `LAYOUT` and `WIDTH` are valid
and hold it (R18, R19, R36), and every other valid register is computed from it, or, for `ABS`, is the absolute value
of an operand that encodes to it on instance `k`, written beside all the others (R19, R87, R88). -/
def ResultsDescribe (k : Nat) (p : Precision) (l : Word64) (r : Results) : Prop :=
  r.width = some (widthCode p) ∧ r.layout = some l ∧ l.toNat < 2 ^ p.width ∧
  FieldsDescribe p l r ∧
  (r.hex = none ∨ r.hex = some (hexOf p l)) ∧
  (r.bin = none ∨ r.bin = some (binOf p l)) ∧
  (∀ a, r.abs = some a →
    (∃ v, a = absVal v ∧ l = encodedLayout p k v) ∧ r.sign ≠ none ∧ r.hex ≠ none ∧ r.bin ≠ none)

/-- The invariant of the machine: `STATUS` is never 3 (R24); `DONE` means that an operand was written since reset
(R31, R94) and that the valid results describe one layout; any other `STATUS` means that no result is valid (R24). -/
structure Inv (s : State) : Prop where
  status_legal : s.status = statusNone ∨ s.status = statusDone ∨ s.status = statusIllegalCmd
  done_operand : s.status = statusDone → s.dataIn ≠ none
  done_results : s.status = statusDone → ∃ p l, ResultsDescribe s.instNo p l s.results
  blank        : s.status ≠ statusDone → s.results = Results.invalid

end Sys2Proof.Machine
end

