-- ==== Sys2Proof/Certificates/Slice0/Obligations.lean ====
section
/-! DEFINITION. The statements for the provers. They are written from the spec's rules with numerals and bit positions
of their own, not with the functions the meanings call, except where a docstring says so. -/

open Sys2Proof Sys2Proof.Machine

namespace Sys2Proof.Claims

/-- The illegal words of R50: "`OP` is 5, 6 or 7, or `RSV != 0`". -/
def IllegalWord (c : CmdWord) : Prop := 5 ≤ (c.extractLsb' 0 3).toNat ∨ c.extractLsb' 4 4 ≠ 0

/-- Everything but `STATUS` and the result registers is as it was: the frame of every command. -/
def SameElsewhere (s t : State) : Prop :=
  t.dataIn = s.dataIn ∧ t.instNo = s.instNo ∧ t.pending = s.pending ∧ t.received = s.received ∧ t.faults = s.faults

/-- The table of R79: `0`-`9` are 0x30-0x39, `A`-`F` are 0x41-0x46. -/
def asciiHex (v : Nat) : Byte := BitVec.ofNat 8 (if v < 10 then 0x30 + v else 0x41 + (v - 10))

@[inherit_doc asciiHex] def asciiBit (b : Bool) : Byte := if b then 0x31 else 0x30

/-- `HEX` and `HEX_LEN` hold the `n/4` hex digits of an `n`-bit layout, most significant first, then 0x00 (R79, R80). -/
def IsHexOf (n : Nat) (l : Word64) (h : HexReg) : Prop :=
  h.len.toNat = n / 4 ∧
  ∀ i : Fin 16, h.bytes[i] = if i.val < n / 4 then asciiHex (l.extractLsb' (n - 4 - 4 * i.val) 4).toNat else 0

/-- `BIN` and `BIN_LEN` hold sign, space, `we` exponent bits, space, `wm` mantissa bits, most significant first, then
0x00 (R79, R83). -/
def IsBinOf (we wm : Nat) (l : Word64) (b : BinReg) : Prop :=
  b.len.toNat = 3 + we + wm ∧
  ∀ i : Fin 66, b.bytes[i] =
    if i.val = 0 then asciiBit (l.getLsbD (we + wm))
    else if i.val = 1 then 0x20
    else if i.val < 2 + we then asciiBit (l.getLsbD (we + wm + 1 - i.val))
    else if i.val = 2 + we then 0x20
    else if i.val < 3 + we + wm then asciiBit (l.getLsbD (we + wm + 2 - i.val))
    else 0

/-- `CLASS`, `IMPLICIT` and `SPECIAL` for raw exponent `e`, all-ones raw exponent `emax` and mantissa `f`: the five
classes of R69 with their codes in R69, R72 and R73. -/
def IsClassOf (emax e f : Nat) (cls : BitVec 3) (implicit : BitVec 2) (special : BitVec 1) : Prop :=
  (e = 0 ∧ f = 0 ∧ cls = 0 ∧ implicit = 0 ∧ special = 1) ∨
  (e = 0 ∧ f ≠ 0 ∧ cls = 1 ∧ implicit = 0 ∧ special = 1) ∨
  (e ≠ 0 ∧ e ≠ emax ∧ cls = 2 ∧ implicit = 1 ∧ special = 0) ∨
  (e = emax ∧ f = 0 ∧ cls = 3 ∧ implicit = 2 ∧ special = 1) ∨
  (e = emax ∧ f ≠ 0 ∧ cls = 4 ∧ implicit = 2 ∧ special = 1)

/-- The registers `SIGN` to `SPECIAL` for a layout of `1 + we + wm` bits (R68 to R73). -/
def IsFieldsOf (we wm bias : Nat) (l : Word64) (r : Results) : Prop :=
  let e := (l.extractLsb' wm we).toNat
  let f := (l.extractLsb' 0 wm).toNat
  r.sign = some (l.extractLsb' (we + wm) 1) ∧ r.rawexp = some (BitVec.ofNat 11 e) ∧
  r.bias = some (BitVec.ofNat 11 bias) ∧ r.actexp = some (BitVec.ofInt 12 ((e : Int) - (bias : Int))) ∧
  r.mant = some (BitVec.ofNat 52 f) ∧
  ∃ cls implicit special, r.cls = some cls ∧ r.implicit = some implicit ∧ r.special = some special ∧
    IsClassOf (2 ^ we - 1) e f cls implicit special

/-- Every result register as CONVERT writes it for layout `l` of the operand `d` (R19, R87, R88). -/
def IsConversionOf (width : BitVec 1) (we wm bias : Nat) (l d : Word64) (r : Results) : Prop :=
  r.width = some width ∧ r.layout = some l ∧ IsFieldsOf we wm bias l r ∧
  r.abs = some (d &&& 0x7FFFFFFFFFFFFFFF#64) ∧
  (∃ h, r.hex = some h ∧ IsHexOf (1 + we + wm) l h) ∧ (∃ b, r.bin = some b ∧ IsBinOf we wm l b)

/-- The table of R19: does the command write the register? -/
def writeTable : Instr → ResultReg → Bool
  | _, .status | _, .width | _, .layout => true
  | .convertS, _ | .convertD, _ => true
  | .encodeS, _ | .encodeD, _ => false
  | .decomposeS, r | .decomposeD, r =>
    r ∈ [ResultReg.sign, .rawexp, .bias, .actexp, .mant, .cls, .special, .implicit]
  | .renderHexS, r | .renderHexD, r => r ∈ [ResultReg.hex, .hexLen]
  | .renderBinS, r | .renderBinD, r => r ∈ [ResultReg.bin, .binLen]

/-- What a read of each register of R18 moves: the register of that name, in its width, if it is valid (R29, R38).
A read of `HEX` or `BIN` moves "every byte and the length together"; that `HEX_LEN` and `BIN_LEN`, read by their own
names, are the lengths of those records is log entry 12 (DEDUCED). -/
def IsReadOf (s : State) : ResultReg → PortValue → Prop
  | .status,   v => v = .word 2 s.status
  | .width,    v => ∃ x, s.results.width = some x ∧ v = .word 1 x
  | .layout,   v => ∃ x, s.results.layout = some x ∧ v = .word 64 x
  | .sign,     v => ∃ x, s.results.sign = some x ∧ v = .word 1 x
  | .rawexp,   v => ∃ x, s.results.rawexp = some x ∧ v = .word 11 x
  | .bias,     v => ∃ x, s.results.bias = some x ∧ v = .word 11 x
  | .actexp,   v => ∃ x, s.results.actexp = some x ∧ v = .word 12 x
  | .mant,     v => ∃ x, s.results.mant = some x ∧ v = .word 52 x
  | .cls,      v => ∃ x, s.results.cls = some x ∧ v = .word 3 x
  | .special,  v => ∃ x, s.results.special = some x ∧ v = .word 1 x
  | .implicit, v => ∃ x, s.results.implicit = some x ∧ v = .word 2 x
  | .abs,      v => ∃ x, s.results.abs = some x ∧ v = .word 64 x
  | .hex,      v => ∃ bytes len, s.results.hex = some ⟨bytes, len⟩ ∧ v = .hexString ⟨bytes, len⟩
  | .hexLen,   v => ∃ bytes len, s.results.hex = some ⟨bytes, len⟩ ∧ v = .word 5 len
  | .bin,      v => ∃ bytes len, s.results.bin = some ⟨bytes, len⟩ ∧ v = .binString ⟨bytes, len⟩
  | .binLen,   v => ∃ bytes len, s.results.bin = some ⟨bytes, len⟩ ∧ v = .word 7 len

/-- `(2 - 2^-24) * 2^127`, from where on magnitudes round to infinity (R65). -/
def overflowAt : ℚ := (2 - (2 : ℚ) ^ (-24 : ℤ)) * (2 : ℚ) ^ (127 : ℤ)

/-- MAXF `= (2 - 2^-23) * 2^127` (R65). -/
def maxFinite : ℚ := (2 - (2 : ℚ) ^ (-23 : ℤ)) * (2 : ℚ) ^ (127 : ℤ)

/-- `2^-150`: up to it magnitudes round to zero (R66). -/
def zeroUpTo : ℚ := (2 : ℚ) ^ (-150 : ℤ)

/-- `(1 - 2^-24) * 2^-126`, from where on magnitudes round to a normal number (R66). -/
def normalFrom : ℚ := (1 - (2 : ℚ) ^ (-24 : ℤ)) * (2 : ℚ) ^ (-126 : ℤ)

/-- `2^-126`, the smallest normal magnitude (R66). -/
def minNormal : ℚ := (2 : ℚ) ^ (-126 : ℤ)

/-- A binary64 NaN: raw exponent all ones, mantissa not zero (R16). -/
def IsNan64 (d : Word64) : Prop := d.extractLsb' 52 11 = 0x7FF#11 ∧ d.extractLsb' 0 52 ≠ 0

/-- A binary32 NaN, the constraint of R62. -/
def IsNan32 (x : Word32) : Prop := x.extractLsb' 23 8 = 0xFF#8 ∧ x.extractLsb' 0 23 ≠ 0

/-- The value of a binary32 layout (R16). -/
def value32 (x : Word32) : Option ℚ := realValue .single (x.setWidth 64)

/-- The value of a binary64 pattern (R16). -/
def value64 (d : Word64) : Option ℚ := realValue .double d

end Sys2Proof.Claims

open Sys2Proof.Claims

/-! ## Encoding and dispatch -/

/-- The ten words of R51, written out, decode to their commands. -/
def Obligations.LegalWordsOfTheTableDecode : Prop :=
  decode 0b00000000#8 = .ok .convertS ∧ decode 0b00001000#8 = .ok .convertD ∧
  decode 0b00000001#8 = .ok .encodeS ∧ decode 0b00001001#8 = .ok .encodeD ∧
  decode 0b00000010#8 = .ok .decomposeS ∧ decode 0b00001010#8 = .ok .decomposeD ∧
  decode 0b00000011#8 = .ok .renderHexS ∧ decode 0b00001011#8 = .ok .renderHexD ∧
  decode 0b00000100#8 = .ok .renderBinS ∧ decode 0b00001100#8 = .ok .renderBinD

/-- Decode and encode agree, both ways: a word decodes to a command exactly if it is that command's encoding. -/
def Obligations.DecodeInvertsEncode : Prop := ∀ (c : CmdWord) (i : Instr), decode c = .ok i ↔ c = encode i

/-- R50: the words that decode to no command are exactly the illegal ones, 246 of 256, and an illegal word runs no
operation: it leaves `STATUS = ILLEGAL_CMD` and every other result register invalid. -/
def Obligations.ExactlyTheIllegalWordsAreRejected : Prop :=
  (∀ c, IllegalWord c ↔ ∃ e, decode c = .error e) ∧
  ((List.range 256).filter fun n => (decode (BitVec.ofNat 8 n)).toOption.isNone).length = 246 ∧
  ∀ c s, IllegalWord c → ∃ t, portWriteCmd c s = .next t ∧ t.status = 2#2 ∧
    ∀ r, r ≠ .status → t.readReg r = none

/-- A step runs the decoded command: when the host's next action writes a legal word to `CMD`, the step is exec of that
command on the state from which the action has been taken. -/
def Obligations.StepRunsDecodedCommand : Prop :=
  ∀ (s : State) (c : CmdWord) (i : Instr) (rest : List Event),
    s.faults = [] → s.pending = .host (.writeCmd c) :: rest → decode c = .ok i → i.wellFormed = true →
      step s = exec i { s with pending := rest }

/-- R93: an illegal `CMD` write changes `STATUS` and the valid bits, whatever the state and whichever the byte, and the
error is not sticky: a later legal command is run and overwrites `STATUS`. -/
def Obligations.IllegalCommandIsReportedAndNotSticky : Prop :=
  ∀ (s : State) (c : CmdWord) (rest : List Event),
    s.faults = [] → s.pending = .host (.writeCmd c) :: rest → IllegalWord c →
      step s = .next { s with pending := rest, status := 2#2, results := Results.invalid } ∧
      ∀ i d, s.dataIn = some d → ∃ u,
        portWriteCmd (encode i) { s with pending := rest, status := 2#2, results := Results.invalid } = .next u ∧
        u.status = 1#2

/-- R98: legality is checked before the operand, and a read can only succeed or be `ReadInvalid`. -/
def Obligations.LegalityIsCheckedBeforeTheOperand : Prop :=
  (∀ (s : State) (c : CmdWord), s.dataIn = none →
    (IllegalWord c → ∃ t, portWriteCmd c s = .next t ∧ t.status = 2#2) ∧
    (¬ IllegalWord c → portWriteCmd c s = .fault (.unwrittenOperand c))) ∧
  ∀ (s : State) (r : ResultReg), (∃ t, portRead r s = .next t) ∨ portRead r s = .fault (.readInvalid r)

/-- R54: the pseudo-instruction is a `DATA` line and a command line, and its two steps run the command on that operand. -/
def Obligations.PseudoInstructionIsDataThenCommand : Prop :=
  ∀ (i : Instr) (v : Word64),
    (ScriptLine.pseudo i v).events = (ScriptLine.data v).events ++ (ScriptLine.command i).events ∧
    ∀ (s : State) (rest : List Event), s.faults = [] → s.pending = (ScriptLine.pseudo i v).events ++ rest →
      ∃ s1, step s = .next s1 ∧ step s1 = exec i { s with dataIn := some v, pending := rest }

/-! ## What each command does. Each statement has the command's word, its fault without an operand, and, with an
operand, the WHOLE next state: the record says that nothing but `STATUS` and the results changes. -/

/-- R55, ENCODE.D. -/
def Obligations.EncodeDCopiesTheValue : Prop :=
  encode .encodeD = 0x09#8 ∧ ∀ s : State,
    (s.dataIn = none → exec .encodeD s = .fault (.unwrittenOperand 0x09#8)) ∧
    ∀ d, s.dataIn = some d → exec .encodeD s =
      .next { s with status := 1#2, results := { Results.invalid with width := some 1#1, layout := some d } }

/-- R56, ENCODE.S. What `narrow32` gives is said by the statements on the narrowing below. -/
def Obligations.EncodeSNarrowsTheValue : Prop :=
  encode .encodeS = 0x01#8 ∧ ∀ s : State,
    (s.dataIn = none → exec .encodeS s = .fault (.unwrittenOperand 0x01#8)) ∧
    ∀ d, s.dataIn = some d → exec .encodeS s =
      .next { s with status := 1#2, results :=
        { Results.invalid with width := some 0#1, layout := some ((narrow32 s.instNo d).setWidth 64) } }

/-- R74, DECOMPOSE.S: the operand is `DATA_IN[31:0]`. -/
def Obligations.DecomposeSWritesTheFields : Prop :=
  encode .decomposeS = 0x02#8 ∧ ∀ s : State,
    (s.dataIn = none → exec .decomposeS s = .fault (.unwrittenOperand 0x02#8)) ∧
    ∀ d, s.dataIn = some d → ∃ r, exec .decomposeS s = .next { s with status := 1#2, results := r } ∧
      r.width = some 0#1 ∧ r.layout = some (0#32 ++ d.extractLsb' 0 32) ∧
      IsFieldsOf 8 23 127 (0#32 ++ d.extractLsb' 0 32) r ∧ r.abs = none ∧ r.hex = none ∧ r.bin = none

/-- R75, DECOMPOSE.D. -/
def Obligations.DecomposeDWritesTheFields : Prop :=
  encode .decomposeD = 0x0A#8 ∧ ∀ s : State,
    (s.dataIn = none → exec .decomposeD s = .fault (.unwrittenOperand 0x0A#8)) ∧
    ∀ d, s.dataIn = some d → ∃ r, exec .decomposeD s = .next { s with status := 1#2, results := r } ∧
      r.width = some 1#1 ∧ r.layout = some d ∧ IsFieldsOf 11 52 1023 d r ∧
      r.abs = none ∧ r.hex = none ∧ r.bin = none

/-- R81, RENDER_HEX.S. -/
def Obligations.RenderHexSWritesEightDigits : Prop :=
  encode .renderHexS = 0x03#8 ∧ ∀ s : State,
    (s.dataIn = none → exec .renderHexS s = .fault (.unwrittenOperand 0x03#8)) ∧
    ∀ d, s.dataIn = some d → ∃ h, IsHexOf 32 d h ∧ exec .renderHexS s =
      .next { s with status := 1#2, results :=
        { Results.invalid with width := some 0#1, layout := some (0#32 ++ d.extractLsb' 0 32), hex := some h } }

/-- R82, RENDER_HEX.D. -/
def Obligations.RenderHexDWritesSixteenDigits : Prop :=
  encode .renderHexD = 0x0B#8 ∧ ∀ s : State,
    (s.dataIn = none → exec .renderHexD s = .fault (.unwrittenOperand 0x0B#8)) ∧
    ∀ d, s.dataIn = some d → ∃ h, IsHexOf 64 d h ∧ exec .renderHexD s =
      .next { s with status := 1#2, results :=
        { Results.invalid with width := some 1#1, layout := some d, hex := some h } }

/-- R84, RENDER_BIN.S. -/
def Obligations.RenderBinSWritesGroupedBits : Prop :=
  encode .renderBinS = 0x04#8 ∧ ∀ s : State,
    (s.dataIn = none → exec .renderBinS s = .fault (.unwrittenOperand 0x04#8)) ∧
    ∀ d, s.dataIn = some d → ∃ b, IsBinOf 8 23 d b ∧ exec .renderBinS s =
      .next { s with status := 1#2, results :=
        { Results.invalid with width := some 0#1, layout := some (0#32 ++ d.extractLsb' 0 32), bin := some b } }

/-- R85, RENDER_BIN.D. -/
def Obligations.RenderBinDWritesGroupedBits : Prop :=
  encode .renderBinD = 0x0C#8 ∧ ∀ s : State,
    (s.dataIn = none → exec .renderBinD s = .fault (.unwrittenOperand 0x0C#8)) ∧
    ∀ d, s.dataIn = some d → ∃ b, IsBinOf 11 52 d b ∧ exec .renderBinD s =
      .next { s with status := 1#2, results :=
        { Results.invalid with width := some 1#1, layout := some d, bin := some b } }

/-- R89, CONVERT.S: every result register, over the narrowed layout, and `ABS` of the ORIGINAL operand (R88). -/
def Obligations.ConvertSWritesEveryRegister : Prop :=
  encode .convertS = 0x00#8 ∧ ∀ s : State,
    (s.dataIn = none → exec .convertS s = .fault (.unwrittenOperand 0x00#8)) ∧
    ∀ d, s.dataIn = some d → ∃ r, exec .convertS s = .next { s with status := 1#2, results := r } ∧
      IsConversionOf 0#1 8 23 127 ((narrow32 s.instNo d).setWidth 64) d r

/-- R90, CONVERT.D. -/
def Obligations.ConvertDWritesEveryRegister : Prop :=
  encode .convertD = 0x08#8 ∧ ∀ s : State,
    (s.dataIn = none → exec .convertD s = .fault (.unwrittenOperand 0x08#8)) ∧
    ∀ d, s.dataIn = some d → ∃ r, exec .convertD s = .next { s with status := 1#2, results := r } ∧
      IsConversionOf 1#1 11 52 1023 d d r

/-! ## Rules over all commands -/

/-- R97: with an operand written, every command on every operand completes with `STATUS = DONE`. -/
def Obligations.NumericEventsAreNotErrors : Prop :=
  ∀ (i : Instr) (s : State) (d : Word64), s.dataIn = some d → ∃ t, exec i s = .next t ∧ t.status = 1#2

/-- The frame of every command: nothing but `STATUS` and the result registers changes. -/
def Obligations.CommandsChangeOnlyStatusAndResults : Prop :=
  ∀ (i : Instr) (s t : State), exec i s = .next t → SameElsewhere s t

/-- R19: after a command exactly the registers of its column are valid, the illegal command's column is `STATUS` alone,
and the six operand-layout commands write `LAYOUT` with the operand layout they were given. -/
def Obligations.CommandsWriteTheirColumnOfTheTable : Prop :=
  (∀ (i : Instr) (s t : State), exec i s = .next t →
    t.status = 1#2 ∧ ∀ r, (t.readReg r).isSome = writeTable i r) ∧
  (∀ (c : CmdWord) (s t : State), IllegalWord c → portWriteCmd c s = .next t →
    t.status = 2#2 ∧ ∀ r, (t.readReg r).isSome = decide (r = .status)) ∧
  (∀ (i : Instr) (s t : State) (d : Word64), i ∈ [Instr.decomposeS, .renderHexS, .renderBinS] → s.dataIn = some d →
    exec i s = .next t → t.results.layout = some (d &&& 0xFFFFFFFF#64)) ∧
  (∀ (i : Instr) (s t : State) (d : Word64), i ∈ [Instr.decomposeD, .renderHexD, .renderBinD] → s.dataIn = some d →
    exec i s = .next t → t.results.layout = some d)

/-- R26: the outcome of a `CMD` write depends on the word, on `DATA_IN` and on the instance's parameter, and on nothing
else: two states that agree on these, whatever else they hold, give the same fault or the same results. -/
def Obligations.ResultsDependOnWordAndOperandOnly : Prop :=
  ∀ (c : CmdWord) (s u : State), s.dataIn = u.dataIn → s.instNo = u.instNo →
    (∃ f, portWriteCmd c s = .fault f ∧ portWriteCmd c u = .fault f) ∨
    ∃ s' u', portWriteCmd c s = .next s' ∧ portWriteCmd c u = .next u' ∧
      s'.status = u'.status ∧ s'.results = u'.results

/-- R77: DECOMPOSE writes the same values for the same operand every time, even on another instance. -/
def Obligations.DecomposeIsIdempotent : Prop :=
  ∀ (i : Instr) (s u s' : State), i = .decomposeS ∨ i = .decomposeD → s.dataIn = u.dataIn → exec i s = .next s' →
    ∃ u', exec i u = .next u' ∧ u'.results = s'.results ∧ u'.status = s'.status ∧
      exec i s' = .next s'

/-- A `CMD` write leaves no trace of the results before it: the step is the same whatever they and `STATUS` were. -/
def Obligations.CommandsForgetOldResults : Prop :=
  ∀ (s : State) (c : CmdWord) (rest : List Event) (st : BitVec 2) (r : Results),
    s.pending = .host (.writeCmd c) :: rest → step { s with status := st, results := r } = step s

/-- The spec's own law: the three fields reassemble to `LAYOUT`, bit for bit. -/
def Obligations.FieldsReassembleToTheLayout : Prop :=
  (∀ (i : Instr) (s t : State), i = .decomposeS ∨ i = .convertS → exec i s = .next t →
    ∃ sg e m l, t.results.sign = some sg ∧ t.results.rawexp = some e ∧ t.results.mant = some m ∧
      t.results.layout = some l ∧ sg ++ e.extractLsb' 0 8 ++ m.extractLsb' 0 23 = l.extractLsb' 0 32 ∧
      l.extractLsb' 32 32 = 0 ∧ e.extractLsb' 8 3 = 0 ∧ m.extractLsb' 23 29 = 0) ∧
  (∀ (i : Instr) (s t : State), i = .decomposeD ∨ i = .convertD → exec i s = .next t →
    ∃ sg e m, t.results.sign = some sg ∧ t.results.rawexp = some e ∧ t.results.mant = some m ∧
      t.results.layout = some (sg ++ e ++ m))

/-- R70: `ACTEXP`, read as a signed number, is `RAWEXP - BIAS` for every class, with the ranges of the table. -/
def Obligations.ActualExponentIsRawMinusBias : Prop :=
  ∀ (i : Instr) (s t : State), i ∈ [Instr.decomposeS, .decomposeD, .convertS, .convertD] → exec i s = .next t →
    ∃ e b a w c, t.results.rawexp = some e ∧ t.results.bias = some b ∧ t.results.actexp = some a ∧
      t.results.width = some w ∧ t.results.cls = some c ∧ a.toInt = (e.toNat : Int) - (b.toNat : Int) ∧
      (w = 0#1 → b = 127#11 ∧ e.toNat ≤ 255 ∧ -127 ≤ a.toInt ∧ a.toInt ≤ 128 ∧
        (c = 0#3 ∨ c = 1#3 → a.toInt = -127) ∧ (c = 3#3 ∨ c = 4#3 → a.toInt = 128)) ∧
      (w = 1#1 → b = 1023#11 ∧ -1023 ≤ a.toInt ∧ a.toInt ≤ 1024 ∧
        (c = 0#3 ∨ c = 1#3 → a.toInt = -1023) ∧ (c = 3#3 ∨ c = 4#3 → a.toInt = 1024))

/-- CONVERT is ENCODE, then DECOMPOSE, RENDER_HEX and RENDER_BIN on the layout fed back as `DATA_IN`. -/
def Obligations.ConvertIsTheCompositionOfTheOthers : Prop :=
  ∀ enc dec hx bn cv : Instr,
    (enc, dec, hx, bn, cv) ∈
      [(Instr.encodeS, Instr.decomposeS, Instr.renderHexS, Instr.renderBinS, Instr.convertS),
       (Instr.encodeD, Instr.decomposeD, Instr.renderHexD, Instr.renderBinD, Instr.convertD)] →
    ∀ (s : State) (d : Word64), s.dataIn = some d →
      ∃ tc te l, exec cv s = .next tc ∧ exec enc s = .next te ∧ te.results.layout = some l ∧
        tc.results.layout = some l ∧ tc.results.width = te.results.width ∧
        ∀ u : State, u.dataIn = some l → ∃ td th tb,
          exec dec u = .next td ∧ exec hx u = .next th ∧ exec bn u = .next tb ∧
          tc.results = { td.results with abs := tc.results.abs, hex := th.results.hex, bin := tb.results.bin }

/-- R88: `ABS` is `{0, value[62:0]}` of the ORIGINAL operand, at both precisions, whatever the narrowing gives; of a NaN it
is a NaN with sign 0 and the same payload. -/
def Obligations.AbsIsTheOperandWithItsSignCleared : Prop :=
  ∀ (i : Instr) (s : State) (d : Word64), i = .convertS ∨ i = .convertD → s.dataIn = some d →
    ∃ t a, exec i s = .next t ∧ t.results.abs = some a ∧ a = 0#1 ++ d.extractLsb' 0 63 ∧
      (IsNan64 d → IsNan64 a ∧ a.extractLsb' 63 1 = 0 ∧ a.extractLsb' 0 52 = d.extractLsb' 0 52)

/-- `ABS` denotes the absolute value of the original operand, whatever the precision. The value formula is the
spec's general knowledge (log entry 16). -/
def Obligations.AbsDenotesTheAbsoluteValue : Prop :=
  ∀ (i : Instr) (s : State) (d : Word64), i = .convertS ∨ i = .convertD → s.dataIn = some d →
    ∃ t a, exec i s = .next t ∧ t.results.abs = some a ∧ ∀ v, value64 d = some v → value64 a = some |v|

/-- The two renderings lose nothing: equal strings come from equal layouts. -/
def Obligations.RenderingsDetermineTheLayout : Prop :=
  (∀ (s u s' u' : State) (d e : Word64), s.dataIn = some d → u.dataIn = some e →
    (exec .renderHexS s = .next s' → exec .renderHexS u = .next u' → s'.results.hex = u'.results.hex →
      d.extractLsb' 0 32 = e.extractLsb' 0 32) ∧
    (exec .renderHexD s = .next s' → exec .renderHexD u = .next u' → s'.results.hex = u'.results.hex → d = e) ∧
    (exec .renderBinS s = .next s' → exec .renderBinS u = .next u' → s'.results.bin = u'.results.bin →
      d.extractLsb' 0 32 = e.extractLsb' 0 32) ∧
    (exec .renderBinD s = .next s' → exec .renderBinD u = .next u' → s'.results.bin = u'.results.bin → d = e))

/-- The grouped string "has exactly two spaces, at index 1 and at index 2 + WE". -/
def Obligations.GroupedStringHasTwoSpaces : Prop :=
  ∀ (i : Instr) (we : Nat) (s t : State),
    (i, we) ∈ [(Instr.renderBinS, 8), (Instr.renderBinD, 11), (Instr.convertS, 8), (Instr.convertD, 11)] →
    exec i s = .next t → ∃ b, t.results.bin = some b ∧ ∀ k : Fin 66, b.bytes[k] = 0x20#8 ↔ k.val = 1 ∨ k.val = 2 + we

/-! ## The narrowing. Where a statement names a value, the formula is the spec's general knowledge (R16, G1, log
entry 16). -/

/-- Every NaN narrows to a binary32 NaN, whatever `NARROW_NAN` is, and the default of the test vectors is one. -/
def Obligations.NanNarrowsToNan : Prop :=
  (∀ (k : Nat) (d : Word64), IsNan64 d → IsNan32 (narrow32 k d)) ∧ ∀ d : Word64, IsNan32 (narrowNanDefault d)

/-- The model's parameter leaves open exactly what R62 leaves open: each binary32 NaN, and nothing else, is the pattern
of one sign and one mantissa value of the two open constants (log entry 8). -/
def Obligations.NanParameterReachesEveryNan : Prop :=
  ∀ x : Word32, IsNan32 x ↔ ∃ (sign : Bool) (m : Fin 8388607), packNan sign m = x

/-- The sign is kept for every operand but a NaN, and for a NaN under the default. -/
def Obligations.NarrowingKeepsTheSign : Prop :=
  (∀ (k : Nat) (d : Word64), ¬ IsNan64 d → (narrow32 k d).msb = d.msb) ∧
  ∀ d : Word64, (narrow32With narrowNanDefault d).msb = d.msb

/-- Infinities and zeros narrow to those of the same sign. -/
def Obligations.InfinitiesAndZerosNarrowExactly : Prop :=
  ∀ k : Nat, narrow32 k 0x7FF0000000000000#64 = 0x7F800000#32 ∧ narrow32 k 0xFFF0000000000000#64 = 0xFF800000#32 ∧
    narrow32 k 0#64 = 0#32 ∧ narrow32 k 0x8000000000000000#64 = 0x80000000#32

/-- `RNE_shift` rounds to the nearest integer, and to the even one on a tie. -/
def Obligations.RneShiftIsNearestTiesToEven : Prop :=
  ∀ m sh : Nat, 1 ≤ sh →
    2 * |(m : Int) - (rneShift m sh : Int) * 2 ^ sh| ≤ 2 ^ sh ∧
    (2 * |(m : Int) - (rneShift m sh : Int) * 2 ^ sh| = 2 ^ sh → rneShift m sh % 2 = 0)

/-- For every finite non-zero operand the shift is at least 1 and the rounded integer at most `2^24`, so that the one
renormalisation of the spec is enough. -/
def Obligations.NarrowingShiftsByAtLeastOne : Prop :=
  ∀ e f : Nat, e < 2047 → f < 2 ^ 52 → ¬ (e = 0 ∧ f = 0) →
    let m := (magnitude64 e f).1
    let x := (magnitude64 e f).2
    1 ≤ targetQuantum m x - x ∧ rneShift m (targetQuantum m x - x).toNat ≤ 2 ^ 24 ∧
    (e ≠ 0 → 29 ≤ targetQuantum m x - x) ∧ (e = 0 → 925 ≤ targetQuantum m x - x)

/-- What narrowing a finite non-zero operand gives, in terms of its exact magnitude `M * 2^x`: `m` is `M * 2^x` at the
quantum `2^q`, rounded to nearest even, and the layout is that of `m * 2^q`. -/
def Obligations.NarrowingFollowsTheIntegerAlgorithm : Prop :=
  ∀ (k : Nat) (d : Word64) (e f : Nat), e = (d.extractLsb' 52 11).toNat → f = (d.extractLsb' 0 52).toNat →
    e ≠ 2047 → ¬ (e = 0 ∧ f = 0) →
    ∃ (M n m : Nat) (x q : Int),
      ((e = 0 ∧ M = f ∧ x = -1074) ∨ (e ≠ 0 ∧ M = 2 ^ 52 + f ∧ x = (e : Int) - 1075)) ∧
      2 ^ (n - 1) ≤ M ∧ M < 2 ^ n ∧ q = max (x + n - 24) (-149) ∧ x < q ∧
      2 * |(M : Int) - (m : Int) * 2 ^ (q - x).toNat| ≤ 2 ^ (q - x).toNat ∧
      (2 * |(M : Int) - (m : Int) * 2 ^ (q - x).toNat| = 2 ^ (q - x).toNat → m % 2 = 0) ∧
      ((m < 2 ^ 23 ∧ (narrow32 k d).extractLsb' 0 31 = BitVec.ofNat 31 m) ∨
       (2 ^ 23 ≤ m ∧ m < 2 ^ 24 ∧ q + 150 < 255 ∧
          (narrow32 k d).extractLsb' 0 31 = BitVec.ofInt 31 ((q + 150) * 2 ^ 23 + ((m : Int) - 2 ^ 23))) ∨
       (m = 2 ^ 24 ∧ q + 151 < 255 ∧ (narrow32 k d).extractLsb' 0 31 = BitVec.ofInt 31 ((q + 151) * 2 ^ 23)) ∨
       (2 ^ 23 ≤ m ∧ m < 2 ^ 24 ∧ 255 ≤ q + 150 ∧ (narrow32 k d).extractLsb' 0 31 = 0x7F800000#31) ∨
       (m = 2 ^ 24 ∧ 255 ≤ q + 151 ∧ (narrow32 k d).extractLsb' 0 31 = 0x7F800000#31))

/-- Below the overflow threshold the narrowed value is the nearest of ALL finite binary32 values, and on a tie
the one with the even mantissa. -/
def Obligations.NarrowingRoundsToNearestEven : Prop :=
  ∀ (k : Nat) (d : Word64) (v : ℚ), value64 d = some v → |v| < overflowAt →
    ∃ y, value32 (narrow32 k d) = some y ∧
      ∀ (x : Word32) (z : ℚ), value32 x = some z →
        |v - y| ≤ |v - z| ∧ (|v - y| = |v - z| → z ≠ y → (narrow32 k d).getLsbD 0 = false)

/-- The overflow boundaries, with the three patterns of the rule. -/
def Obligations.NarrowingOverflowBoundaries : Prop :=
  (∀ (k : Nat) (d : Word64) (v : ℚ), value64 d = some v →
    (overflowAt ≤ |v| → narrow32 k d = if d.msb then 0xFF800000#32 else 0x7F800000#32) ∧
    (maxFinite ≤ |v| ∧ |v| < overflowAt → narrow32 k d = if d.msb then 0xFF7FFFFF#32 else 0x7F7FFFFF#32)) ∧
  value32 0x7F7FFFFF#32 = some maxFinite ∧ value64 0x47EFFFFFE0000000#64 = some maxFinite ∧
  value64 0x47EFFFFFF0000000#64 = some overflowAt

/-- The underflow boundaries. -/
def Obligations.NarrowingUnderflowBoundaries : Prop :=
  ∀ (k : Nat) (d : Word64) (v : ℚ), value64 d = some v → v ≠ 0 →
    (|v| ≤ zeroUpTo → narrow32 k d = if d.msb then 0x80000000#32 else 0#32) ∧
    (zeroUpTo < |v| ∧ |v| < normalFrom →
      (narrow32 k d).msb = d.msb ∧ 1 ≤ ((narrow32 k d).extractLsb' 0 31).toNat ∧
        ((narrow32 k d).extractLsb' 0 31).toNat ≤ 0x007FFFFF) ∧
    (normalFrom ≤ |v| ∧ |v| < minNormal → narrow32 k d = if d.msb then 0x80800000#32 else 0x00800000#32) ∧
    (d.extractLsb' 52 11 = 0#11 → |v| ≤ zeroUpTo)

/-- Exactness: what binary32 can represent is narrowed to its pattern, and its value has one binary64 pattern, the
operand. A signed zero and an infinity count as themselves. -/
def Obligations.RepresentableValuesNarrowExactly : Prop :=
  (∀ (k : Nat) (d : Word64) (x : Word32), denote .double d ≠ .nan → denote .single (x.setWidth 64) = denote .double d →
    narrow32 k d = x) ∧
  ∀ (k : Nat) (d d' : Word64), denote .double d ≠ .nan →
    denote .single ((narrow32 k d).setWidth 64) = denote .double d →
    denote .double d' = denote .single ((narrow32 k d).setWidth 64) → d' = d

/-- The class CONVERT reports follows from the operand: for `.D` it is the class of the pattern itself, for `.S` the
operand's magnitude decides, with the exact boundaries. -/
def Obligations.ReportedClassFollowsTheMagnitude : Prop :=
  (∀ (s : State) (d : Word64), s.dataIn = some d → ∃ t c, exec .convertS s = .next t ∧ t.results.cls = some c ∧
    (c = 0#3 ↔ ∃ v, value64 d = some v ∧ |v| ≤ zeroUpTo) ∧
    (c = 1#3 ↔ ∃ v, value64 d = some v ∧ zeroUpTo < |v| ∧ |v| < normalFrom) ∧
    (c = 2#3 ↔ ∃ v, value64 d = some v ∧ normalFrom ≤ |v| ∧ |v| < overflowAt) ∧
    (c = 3#3 ↔ d.extractLsb' 0 63 = 0x7FF0000000000000#63 ∨ ∃ v, value64 d = some v ∧ overflowAt ≤ |v|) ∧
    (c = 4#3 ↔ IsNan64 d)) ∧
  ∀ (s u : State) (d : Word64), s.dataIn = some d → u.dataIn = some d →
    ∃ tc td, exec .convertD s = .next tc ∧ exec .decomposeD u = .next td ∧ tc.results.cls = td.results.cls

/-! ## Ports, faults, reset -/

/-- The side effects of the accesses (R39): a `CMD` write runs a command, a `DATA_IN` write only stores, a read changes
nothing but what the host has got. That the host's values are a list, which a read lengthens by one entry, is log entry 4
(DESIGN CHOICE). -/
def Obligations.PortAccessesHaveOnlyTheirEffects : Prop :=
  ∀ (s : State) (rest : List Event), s.faults = [] →
    (∀ v, s.pending = .host (.writeData v) :: rest → step s = .next { s with dataIn := some v, pending := rest }) ∧
    (∀ r t, s.pending = .host (.read r) :: rest → step s = .next t →
      t = { s with pending := rest, received := t.received } ∧ t.received.length = s.received.length + 1) ∧
    (∀ i d, s.pending = .host (.writeCmd (encode i)) :: rest → s.dataIn = some d →
      ∃ t, step s = .next t ∧ exec i { s with pending := rest } = .next t)

/-- A read returns the register of the name read, for each of the sixteen names, if that register is valid: `STATUS`
always; and two reads in a row return the same. `HEX_LEN` and `BIN_LEN` beside `HEX` and `BIN`: log entry 12 (DEDUCED).
Where the host keeps the values: log entry 4 (DESIGN CHOICE). -/
def Obligations.ReadsReturnTheRegister : Prop :=
  (∀ (s : State) (r : ResultReg) (v : PortValue), s.readReg r = some v ↔ IsReadOf s r v) ∧
  ∀ (s : State) (r : ResultReg) (rest : List Event) (v : PortValue),
    s.faults = [] → s.pending = .host (.read r) :: .host (.read r) :: rest → IsReadOf s r v →
      s.readReg .status = some (.word 2 s.status) ∧
      ∃ t u, step s = .next t ∧ step t = .next u ∧
        u = { s with pending := rest, received := s.received ++ [⟨r, v⟩, ⟨r, v⟩] }

/-- R95: a read of a register that is not valid, because nothing wrote it since reset, or the last command did not, or
it was illegal, is `ReadInvalid`: the fault is recorded and the host gets no value. -/
def Obligations.ReadOfAnInvalidRegisterFaults : Prop :=
  (∀ (s : State) (r : ResultReg) (rest : List Event), s.faults = [] → s.pending = .host (.read r) :: rest →
    s.readReg r = none →
      step s = .fault (.readInvalid r) ∧ (advance s).faults = [.readInvalid r] ∧ (advance s).received = s.received) ∧
  (∀ r, r ≠ .status → State.reset.readReg r = none) ∧
  (∀ (i : Instr) (s t : State) (r : ResultReg), exec i s = .next t → writeTable i r = false → t.readReg r = none) ∧
  (∀ (c : CmdWord) (s t : State) (r : ResultReg), IllegalWord c → portWriteCmd c s = .next t → r ≠ .status →
    t.readReg r = none)

/-- R94: a legal command without an operand is `UnwrittenOperand`; the fault is recorded and no state after it is final;
and `DATA_IN`, once written, has a value until a reset. -/
def Obligations.CommandWithoutOperandFaultsForGood : Prop :=
  (∀ (s : State) (i : Instr) (rest : List Event), s.faults = [] →
    s.pending = .host (.writeCmd (encode i)) :: rest → s.dataIn = none →
      step s = .fault (.unwrittenOperand (encode i)) ∧ (advance s).faults = [.unwrittenOperand (encode i)] ∧
      ∀ n, ¬ (runRecorded n (advance s)).Final) ∧
  ∀ s t : State, step s = .next t → s.dataIn ≠ none → t.dataIn = none → s.pending.head? = some .reset

/-- `DATA_IN` stays until the next write of it or a reset: no command and no read changes it. -/
def Obligations.OperandPersists : Prop :=
  ∀ s t : State, step s = .next t → s.pending.head? ≠ some .reset →
    (∀ v, s.pending.head? ≠ some (.host (.writeData v))) → t.dataIn = s.dataIn

/-- A host action ends in one of six ways, each under its own condition. The table of R92 has the command that
completes, the illegal command and the two model faults; a `DATA_IN` write that stores is R28, a read that returns is
R29, and that the host's values are a list to which the read appends is log entry 4 (DESIGN CHOICE). -/
def Obligations.HostActionsEndInTheListedOutcomes : Prop :=
  ∀ (a : HostAction) (s : State), a ≠ .readCmd →
    (∃ v, a = .writeData v ∧ hostAct a s = .next { s with dataIn := some v }) ∨
    (∃ r v, a = .read r ∧ s.readReg r = some v ∧
      hostAct a s = .next { s with received := s.received ++ [⟨r, v⟩] }) ∨
    (∃ i d t, a = .writeCmd (encode i) ∧ s.dataIn = some d ∧ hostAct a s = .next t ∧ t.status = 1#2 ∧
      ∀ r, (t.readReg r).isSome = writeTable i r) ∨
    (∃ c, a = .writeCmd c ∧ IllegalWord c ∧
      hostAct a s = .next { s with status := 2#2, results := Results.invalid }) ∨
    (∃ i, a = .writeCmd (encode i) ∧ s.dataIn = none ∧ hostAct a s = .fault (.unwrittenOperand (encode i))) ∨
    (∃ r, a = .read r ∧ s.readReg r = none ∧ hostAct a s = .fault (.readInvalid r))

/-- A read of `CMD` is refused, and it is the only thing a step refuses. -/
def Obligations.OnlyAReadOfCmdIsRefused : Prop :=
  ∀ (s : State) (r : Refusal), step s = .refused r ↔
    s.faults = [] ∧ s.pending.head? = some (.host .readCmd) ∧ r = .readOfCmd

/-- Model faults are never cleared (R101), and a model fault "stops the model" (R100): that a state with a recorded
fault answers its first fault at every step and stays as it is, is log entry 5 (DEDUCED). After an illegal command the
next `CMD` write is handled as if that command had not been (R101). -/
def Obligations.FaultsAreNeverCleared : Prop :=
  (∀ (n : Nat) (s : State), s.faults <+: (runRecorded n s).faults) ∧
  (∀ (s : State) (f : Fault) (fs : List Fault), s.faults = f :: fs → step s = .fault f ∧ advance s = s) ∧
  ∀ (s t : State) (c c' : CmdWord), IllegalWord c → portWriteCmd c s = .next t → portWriteCmd c' t = portWriteCmd c' s

/-- R31: the state after reset. `DATA_IN` is unwritten, and "a command before the first `DATA_IN` write raises
`UnwrittenOperand`", at reset and as long as no operand is written; `STATUS` is 0; every other result register is
invalid, and so unreadable. -/
def Obligations.ResetStateIsBlank : Prop :=
  State.reset.dataIn = none ∧
  (∀ i : Instr, portWriteCmd (encode i) State.reset = .fault (.unwrittenOperand (encode i))) ∧
  (∀ (i : Instr) (s : State), s.dataIn = none → portWriteCmd (encode i) s = .fault (.unwrittenOperand (encode i))) ∧
  State.reset.readReg .status = some (.word 2 0#2) ∧
  ∀ r, r ≠ .status → State.reset.readReg r = none ∧ portRead r State.reset = .fault (.readInvalid r)

/-- R109, R110: a reset between host actions puts the block's state into the values of R31, and does not change the
instance's parameter. -/
def Obligations.ResetPutsTheBlockIntoItsResetState : Prop :=
  ∀ (s : State) (rest : List Event), s.faults = [] → s.pending = .reset :: rest →
    ∃ t, step s = .next t ∧ t.dataIn = none ∧ t.status = 0#2 ∧ (∀ r, r ≠ .status → t.readReg r = none) ∧
      ∀ d, narrow32 t.instNo d = narrow32 s.instNo d

/-- With no host action pending nothing happens. The model's choice for a block that "does no work between commands":
log entry 6. -/
def Obligations.IdleBlockStaysAsItIs : Prop :=
  ∀ s : State, s.faults = [] → s.pending = [] → step s = .next s

/-! ## Invariants -/

/-- HEADLINE. Every step keeps the invariant, from every state that has it: `STATUS` is legal, and after a completed
command the valid registers describe one layout, each in the way the spec computes it. -/
def Obligations.StepKeepsTheInvariant : Prop := ∀ s t : State, Inv s → step s = .next t → Inv t

/-- The invariant holds after reset, on every instance. -/
def Obligations.ResetHasTheInvariant : Prop := Inv State.reset ∧ ∀ k, Inv (State.resetInstance k)

/-- HEADLINE. The invariant holds along every run with its fault record, faulted states included. -/
def Obligations.RecordedRunsKeepTheInvariant : Prop := ∀ (n : Nat) (s : State), Inv s → Inv (runRecorded n s)

/-- The reserved codes are never produced, the bits a `.S` result leaves are zero, and the string lengths are the two
of each renderer, in every state with the invariant. -/
def Obligations.ReservedCodesAreNeverProduced : Prop :=
  ∀ s : State, Inv s →
    s.status ≠ 3#2 ∧
    (∀ c, s.results.cls = some c → c.toNat ≤ 4) ∧ (∀ c, s.results.implicit = some c → c ≠ 3#2) ∧
    (s.results.width = some 0#1 →
      (∀ l, s.results.layout = some l → l.extractLsb' 32 32 = 0) ∧
      (∀ e, s.results.rawexp = some e → e.extractLsb' 8 3 = 0) ∧
      (∀ m, s.results.mant = some m → m.extractLsb' 23 29 = 0) ∧
      (∀ h, s.results.hex = some h → h.len = 8#5) ∧ (∀ b, s.results.bin = some b → b.len = 34#7)) ∧
    (s.results.width = some 1#1 →
      (∀ h, s.results.hex = some h → h.len = 16#5) ∧ (∀ b, s.results.bin = some b → b.len = 66#7))

/-! ## Instances -/

/-- R42: a step of one instance changes no other, and steps of two instances commute. -/
def Obligations.InstancesAreIndependent : Prop :=
  (∀ (p q : Platform) (k : Nat), Platform.stepAt k p = .next q →
    q.length = p.length ∧ ∀ j, j ≠ k → q[j]? = p[j]?) ∧
  ∀ (p q r : Platform) (j k : Nat), j ≠ k → Platform.stepAt j p = .next q → Platform.stepAt k p = .next r →
    ∃ u, Platform.stepAt k q = .next u ∧ Platform.stepAt j r = .next u

/-- A platform has at least one instance, and after reset every instance is in the reset state and differs from another
in its parameter alone. -/
def Obligations.PlatformResetsEveryInstance : Prop :=
  1 ≤ Platform.reset.length ∧
  ∀ (k : Nat) (s : State), Platform.reset[k]? = some s → s = { State.reset with instNo := k }
end

