-- ==== Sys2Proof/Laws/Codec.lean ====
section
/-! SUPPORT. Small lemmas about layouts, the narrowing and the string registers. -/

namespace Sys2Proof.Machine

section Fields
variable (p : Precision) (l : Word64)

theorem rawExpField_toNat : (rawExpField p l).toNat = (l.extractLsb' p.mantWidth p.expWidth).toNat := by
  cases p <;> simp [rawExpField, Precision.expWidth]
  omega

theorem mantField_toNat : (mantField p l).toNat = (l.extractLsb' 0 p.mantWidth).toNat := by
  cases p <;> simp [mantField, Precision.mantWidth]
  omega

theorem rawExpField_le : (rawExpField p l).toNat ≤ p.rawExpMax := by
  have h := (l.extractLsb' p.mantWidth p.expWidth).isLt
  rw [rawExpField_toNat]
  unfold Precision.rawExpMax
  omega

theorem mantField_lt : (mantField p l).toNat < 2 ^ p.mantWidth := by
  rw [mantField_toNat]
  exact (l.extractLsb' 0 p.mantWidth).isLt

/-- A single layout operand fits 32 bits; a double one is any 64. -/
theorem layoutOperand_lt (d : Word64) : (layoutOperand p d).toNat < 2 ^ p.width := by
  cases p
  · have h := (d.extractLsb' 0 32).isLt
    simp only [layoutOperand, BitVec.toNat_setWidth, Precision.width]
    omega
  · exact d.isLt

theorem encodedLayout_lt (k : Nat) (v : Word64) : (encodedLayout p k v).toNat < 2 ^ p.width := by
  cases p
  · have h := (narrow32 k v).isLt
    simp only [encodedLayout, BitVec.toNat_setWidth, Precision.width]
    omega
  · exact v.isLt

end Fields

section Pack
variable (s : BitVec 1) (e : BitVec 8) (m : BitVec 23)

@[simp] theorem pack32_sign : (pack32 s e m).extractLsb' 31 1 = s := by
  ext i hi
  simp [pack32, BitVec.getElem_extractLsb']
  grind

@[simp] theorem pack32_exp : (pack32 s e m).extractLsb' 23 8 = e := by
  ext i hi
  simp [pack32, BitVec.getElem_extractLsb']
  grind

@[simp] theorem pack32_mant : (pack32 s e m).extractLsb' 0 23 = m := by
  ext i hi
  simp [pack32, BitVec.getElem_extractLsb']
  grind

end Pack

section Narrow

theorem two_pow_le_of_bitLength {m : Nat} (h : m ≠ 0) : 2 ^ (bitLength m - 1) ≤ m := by
  simpa [bitLength] using Nat.log2_self_le h

theorem lt_two_pow_bitLength (m : Nat) : m < 2 ^ bitLength m := Nat.lt_log2_self

/-- Renormalising keeps the value `m * 2^q` (R61). -/
theorem renormalise_value (m : Nat) (q : Int) :
    ((renormalise m q).1 : ℚ) * 2 ^ (renormalise m q).2 = (m : ℚ) * 2 ^ q := by
  unfold renormalise
  split
  · next h =>
    subst h
    rw [zpow_add₀ (by norm_num)]
    push_cast
    ring
  · rfl

theorem rneShift_eq_floor_or_succ (m sh : Nat) :
    rneShift m sh = m / 2 ^ sh ∨ rneShift m sh = m / 2 ^ sh + 1 := by
  unfold rneShift
  simp only
  split
  · exact .inr rfl
  · exact .inl rfl

end Narrow

section Strings

@[simp] theorem fillString_getElem (n : Nat) (cs : List Byte) (i : Nat) (h : i < n) :
    (fillString n cs)[i] = cs.getD i 0 := by
  simp [fillString]

@[simp] theorem hexChars_length (p : Precision) (l : Word64) : (hexChars p l).length = p.width / 4 := by
  cases p <;> simp [hexChars, Precision.bufferBytes, Precision.width, List.length_flatMap]

@[simp] theorem bitChars_length (l : Word64) (hi n : Nat) : (bitChars l hi n).length = n := by
  simp [bitChars]

/-- BIN_LEN is N + 2 (R83). -/
@[simp] theorem binChars_length (p : Precision) (l : Word64) : (binChars p l).length = p.width + 2 := by
  cases p <;> rfl

/-- HEX_LEN is N/4: 8 or 16 (R80). -/
@[simp] theorem hexOf_len (p : Precision) (l : Word64) :
    (hexOf p l).len = match p with | .single => 8 | .double => 16 := by
  cases p <;> rfl

/-- BIN_LEN is N + 2: 34 or 66 (R83). -/
@[simp] theorem binOf_len (p : Precision) (l : Word64) :
    (binOf p l).len = match p with | .single => 34 | .double => 66 := by
  cases p <;> simp [binOf, Precision.width]

end Strings

end Sys2Proof.Machine
end

