-- ==== Sys2Proof/Laws/State.lean ====
section
/-! SUPPORT. One lemma per field per named update, for State and for Results: no proof unfolds a record update. -/

namespace Sys2Proof.Machine

section StateUpdates
variable (s : State)

@[simp] theorem invalidateResults_dataIn : s.invalidateResults.dataIn = s.dataIn := rfl
@[simp] theorem invalidateResults_status : s.invalidateResults.status = s.status := rfl
@[simp] theorem invalidateResults_results : s.invalidateResults.results = Results.invalid := rfl
@[simp] theorem invalidateResults_instNo : s.invalidateResults.instNo = s.instNo := rfl
@[simp] theorem invalidateResults_pending : s.invalidateResults.pending = s.pending := rfl
@[simp] theorem invalidateResults_received : s.invalidateResults.received = s.received := rfl
@[simp] theorem invalidateResults_faults : s.invalidateResults.faults = s.faults := rfl

@[simp] theorem complete_dataIn (r : Results) : (s.complete r).dataIn = s.dataIn := rfl
@[simp] theorem complete_status (r : Results) : (s.complete r).status = statusDone := rfl
@[simp] theorem complete_results (r : Results) : (s.complete r).results = r := rfl
@[simp] theorem complete_instNo (r : Results) : (s.complete r).instNo = s.instNo := rfl
@[simp] theorem complete_pending (r : Results) : (s.complete r).pending = s.pending := rfl
@[simp] theorem complete_received (r : Results) : (s.complete r).received = s.received := rfl
@[simp] theorem complete_faults (r : Results) : (s.complete r).faults = s.faults := rfl

@[simp] theorem illegalCommand_dataIn : (illegalCommand s).dataIn = s.dataIn := rfl
@[simp] theorem illegalCommand_status : (illegalCommand s).status = statusIllegalCmd := rfl
@[simp] theorem illegalCommand_results : (illegalCommand s).results = Results.invalid := rfl
@[simp] theorem illegalCommand_instNo : (illegalCommand s).instNo = s.instNo := rfl
@[simp] theorem illegalCommand_pending : (illegalCommand s).pending = s.pending := rfl
@[simp] theorem illegalCommand_received : (illegalCommand s).received = s.received := rfl
@[simp] theorem illegalCommand_faults : (illegalCommand s).faults = s.faults := rfl

@[simp] theorem withPending_dataIn (es : List Event) : (s.withPending es).dataIn = s.dataIn := rfl
@[simp] theorem withPending_status (es : List Event) : (s.withPending es).status = s.status := rfl
@[simp] theorem withPending_results (es : List Event) : (s.withPending es).results = s.results := rfl
@[simp] theorem withPending_instNo (es : List Event) : (s.withPending es).instNo = s.instNo := rfl
@[simp] theorem withPending_pending (es : List Event) : (s.withPending es).pending = es := rfl
@[simp] theorem withPending_received (es : List Event) : (s.withPending es).received = s.received := rfl
@[simp] theorem withPending_faults (es : List Event) : (s.withPending es).faults = s.faults := rfl

@[simp] theorem withDataIn_dataIn (v : Word64) : (s.withDataIn v).dataIn = some v := rfl
@[simp] theorem withDataIn_status (v : Word64) : (s.withDataIn v).status = s.status := rfl
@[simp] theorem withDataIn_results (v : Word64) : (s.withDataIn v).results = s.results := rfl
@[simp] theorem withDataIn_instNo (v : Word64) : (s.withDataIn v).instNo = s.instNo := rfl
@[simp] theorem withDataIn_pending (v : Word64) : (s.withDataIn v).pending = s.pending := rfl
@[simp] theorem withDataIn_received (v : Word64) : (s.withDataIn v).received = s.received := rfl
@[simp] theorem withDataIn_faults (v : Word64) : (s.withDataIn v).faults = s.faults := rfl

@[simp] theorem logRead_dataIn (x : ReadRecord) : (s.logRead x).dataIn = s.dataIn := rfl
@[simp] theorem logRead_status (x : ReadRecord) : (s.logRead x).status = s.status := rfl
@[simp] theorem logRead_results (x : ReadRecord) : (s.logRead x).results = s.results := rfl
@[simp] theorem logRead_instNo (x : ReadRecord) : (s.logRead x).instNo = s.instNo := rfl
@[simp] theorem logRead_pending (x : ReadRecord) : (s.logRead x).pending = s.pending := rfl
@[simp] theorem logRead_received (x : ReadRecord) : (s.logRead x).received = s.received ++ [x] := rfl
@[simp] theorem logRead_faults (x : ReadRecord) : (s.logRead x).faults = s.faults := rfl

@[simp] theorem resetBlock_dataIn : s.resetBlock.dataIn = none := rfl
@[simp] theorem resetBlock_status : s.resetBlock.status = statusNone := rfl
@[simp] theorem resetBlock_results : s.resetBlock.results = Results.invalid := rfl
@[simp] theorem resetBlock_instNo : s.resetBlock.instNo = s.instNo := rfl
@[simp] theorem resetBlock_pending : s.resetBlock.pending = s.pending := rfl
@[simp] theorem resetBlock_received : s.resetBlock.received = s.received := rfl
@[simp] theorem resetBlock_faults : s.resetBlock.faults = s.faults := rfl

@[simp] theorem issueWord_dataIn (w : Nat) : (issueWord w s).dataIn = some (s.dataIn.getD 0) := rfl
@[simp] theorem issueWord_status (w : Nat) : (issueWord w s).status = s.status := rfl
@[simp] theorem issueWord_results (w : Nat) : (issueWord w s).results = s.results := rfl
@[simp] theorem issueWord_instNo (w : Nat) : (issueWord w s).instNo = s.instNo := rfl
@[simp] theorem issueWord_pending (w : Nat) : (issueWord w s).pending = .host (.writeCmd (BitVec.ofNat 8 w)) :: s.pending := rfl
@[simp] theorem issueWord_received (w : Nat) : (issueWord w s).received = s.received := rfl
@[simp] theorem issueWord_faults (w : Nat) : (issueWord w s).faults = s.faults := rfl

@[simp] theorem recordFault_dataIn (f : Fault) : (s.recordFault f).dataIn = s.dataIn := by cases f <;> rfl
@[simp] theorem recordFault_status (f : Fault) : (s.recordFault f).status = s.status := by cases f <;> rfl
@[simp] theorem recordFault_instNo (f : Fault) : (s.recordFault f).instNo = s.instNo := by cases f <;> rfl
@[simp] theorem recordFault_pending (f : Fault) : (s.recordFault f).pending = s.pending := by cases f <;> rfl
@[simp] theorem recordFault_received (f : Fault) : (s.recordFault f).received = s.received := by cases f <;> rfl
@[simp] theorem recordFault_faults (f : Fault) : (s.recordFault f).faults = s.faults ++ [f] := by cases f <;> rfl
@[simp] theorem recordFault_results_unwritten (c : CmdWord) :
    (s.recordFault (.unwrittenOperand c)).results = Results.invalid := rfl
@[simp] theorem recordFault_results_read (r : ResultReg) :
    (s.recordFault (.readInvalid r)).results = s.results := rfl

end StateUpdates

section ResultUpdates
variable (r : Results)

@[simp] theorem invalid_width : Results.invalid.width = none := rfl
@[simp] theorem invalid_layout : Results.invalid.layout = none := rfl
@[simp] theorem invalid_sign : Results.invalid.sign = none := rfl
@[simp] theorem invalid_rawexp : Results.invalid.rawexp = none := rfl
@[simp] theorem invalid_bias : Results.invalid.bias = none := rfl
@[simp] theorem invalid_actexp : Results.invalid.actexp = none := rfl
@[simp] theorem invalid_mant : Results.invalid.mant = none := rfl
@[simp] theorem invalid_cls : Results.invalid.cls = none := rfl
@[simp] theorem invalid_special : Results.invalid.special = none := rfl
@[simp] theorem invalid_implicit : Results.invalid.implicit = none := rfl
@[simp] theorem invalid_abs : Results.invalid.abs = none := rfl
@[simp] theorem invalid_hex : Results.invalid.hex = none := rfl
@[simp] theorem invalid_bin : Results.invalid.bin = none := rfl

@[simp] theorem writeLayout_width (p : Precision) (l : Word64) : (r.writeLayout p l).width = some (widthCode p) := rfl
@[simp] theorem writeLayout_layout (p : Precision) (l : Word64) : (r.writeLayout p l).layout = some l := rfl
@[simp] theorem writeLayout_sign (p : Precision) (l : Word64) : (r.writeLayout p l).sign = r.sign := rfl
@[simp] theorem writeLayout_rawexp (p : Precision) (l : Word64) : (r.writeLayout p l).rawexp = r.rawexp := rfl
@[simp] theorem writeLayout_bias (p : Precision) (l : Word64) : (r.writeLayout p l).bias = r.bias := rfl
@[simp] theorem writeLayout_actexp (p : Precision) (l : Word64) : (r.writeLayout p l).actexp = r.actexp := rfl
@[simp] theorem writeLayout_mant (p : Precision) (l : Word64) : (r.writeLayout p l).mant = r.mant := rfl
@[simp] theorem writeLayout_cls (p : Precision) (l : Word64) : (r.writeLayout p l).cls = r.cls := rfl
@[simp] theorem writeLayout_special (p : Precision) (l : Word64) : (r.writeLayout p l).special = r.special := rfl
@[simp] theorem writeLayout_implicit (p : Precision) (l : Word64) : (r.writeLayout p l).implicit = r.implicit := rfl
@[simp] theorem writeLayout_abs (p : Precision) (l : Word64) : (r.writeLayout p l).abs = r.abs := rfl
@[simp] theorem writeLayout_hex (p : Precision) (l : Word64) : (r.writeLayout p l).hex = r.hex := rfl
@[simp] theorem writeLayout_bin (p : Precision) (l : Word64) : (r.writeLayout p l).bin = r.bin := rfl

@[simp] theorem writeFields_width (p : Precision) (l : Word64) : (r.writeFields p l).width = r.width := rfl
@[simp] theorem writeFields_layout (p : Precision) (l : Word64) : (r.writeFields p l).layout = r.layout := rfl
@[simp] theorem writeFields_sign (p : Precision) (l : Word64) : (r.writeFields p l).sign = some (signField p l) := rfl
@[simp] theorem writeFields_rawexp (p : Precision) (l : Word64) :
    (r.writeFields p l).rawexp = some (rawExpField p l) := rfl
@[simp] theorem writeFields_bias (p : Precision) (l : Word64) : (r.writeFields p l).bias = some (biasCode p) := rfl
@[simp] theorem writeFields_actexp (p : Precision) (l : Word64) :
    (r.writeFields p l).actexp = some (actualExp p (rawExpField p l)) := rfl
@[simp] theorem writeFields_mant (p : Precision) (l : Word64) : (r.writeFields p l).mant = some (mantField p l) := rfl
@[simp] theorem writeFields_cls (p : Precision) (l : Word64) :
    (r.writeFields p l).cls = some (classCode (classOf p l)) := rfl
@[simp] theorem writeFields_special (p : Precision) (l : Word64) :
    (r.writeFields p l).special = some (specialFlag (classOf p l)) := rfl
@[simp] theorem writeFields_implicit (p : Precision) (l : Word64) :
    (r.writeFields p l).implicit = some (implicitCode (classOf p l)) := rfl
@[simp] theorem writeFields_abs (p : Precision) (l : Word64) : (r.writeFields p l).abs = r.abs := rfl
@[simp] theorem writeFields_hex (p : Precision) (l : Word64) : (r.writeFields p l).hex = r.hex := rfl
@[simp] theorem writeFields_bin (p : Precision) (l : Word64) : (r.writeFields p l).bin = r.bin := rfl

@[simp] theorem writeAbs_width (v : Word64) : (r.writeAbs v).width = r.width := rfl
@[simp] theorem writeAbs_layout (v : Word64) : (r.writeAbs v).layout = r.layout := rfl
@[simp] theorem writeAbs_sign (v : Word64) : (r.writeAbs v).sign = r.sign := rfl
@[simp] theorem writeAbs_rawexp (v : Word64) : (r.writeAbs v).rawexp = r.rawexp := rfl
@[simp] theorem writeAbs_bias (v : Word64) : (r.writeAbs v).bias = r.bias := rfl
@[simp] theorem writeAbs_actexp (v : Word64) : (r.writeAbs v).actexp = r.actexp := rfl
@[simp] theorem writeAbs_mant (v : Word64) : (r.writeAbs v).mant = r.mant := rfl
@[simp] theorem writeAbs_cls (v : Word64) : (r.writeAbs v).cls = r.cls := rfl
@[simp] theorem writeAbs_special (v : Word64) : (r.writeAbs v).special = r.special := rfl
@[simp] theorem writeAbs_implicit (v : Word64) : (r.writeAbs v).implicit = r.implicit := rfl
@[simp] theorem writeAbs_abs (v : Word64) : (r.writeAbs v).abs = some (absVal v) := rfl
@[simp] theorem writeAbs_hex (v : Word64) : (r.writeAbs v).hex = r.hex := rfl
@[simp] theorem writeAbs_bin (v : Word64) : (r.writeAbs v).bin = r.bin := rfl

@[simp] theorem writeHex_width (p : Precision) (l : Word64) : (r.writeHex p l).width = r.width := rfl
@[simp] theorem writeHex_layout (p : Precision) (l : Word64) : (r.writeHex p l).layout = r.layout := rfl
@[simp] theorem writeHex_sign (p : Precision) (l : Word64) : (r.writeHex p l).sign = r.sign := rfl
@[simp] theorem writeHex_rawexp (p : Precision) (l : Word64) : (r.writeHex p l).rawexp = r.rawexp := rfl
@[simp] theorem writeHex_bias (p : Precision) (l : Word64) : (r.writeHex p l).bias = r.bias := rfl
@[simp] theorem writeHex_actexp (p : Precision) (l : Word64) : (r.writeHex p l).actexp = r.actexp := rfl
@[simp] theorem writeHex_mant (p : Precision) (l : Word64) : (r.writeHex p l).mant = r.mant := rfl
@[simp] theorem writeHex_cls (p : Precision) (l : Word64) : (r.writeHex p l).cls = r.cls := rfl
@[simp] theorem writeHex_special (p : Precision) (l : Word64) : (r.writeHex p l).special = r.special := rfl
@[simp] theorem writeHex_implicit (p : Precision) (l : Word64) : (r.writeHex p l).implicit = r.implicit := rfl
@[simp] theorem writeHex_abs (p : Precision) (l : Word64) : (r.writeHex p l).abs = r.abs := rfl
@[simp] theorem writeHex_hex (p : Precision) (l : Word64) : (r.writeHex p l).hex = some (hexOf p l) := rfl
@[simp] theorem writeHex_bin (p : Precision) (l : Word64) : (r.writeHex p l).bin = r.bin := rfl

@[simp] theorem writeBin_width (p : Precision) (l : Word64) : (r.writeBin p l).width = r.width := rfl
@[simp] theorem writeBin_layout (p : Precision) (l : Word64) : (r.writeBin p l).layout = r.layout := rfl
@[simp] theorem writeBin_sign (p : Precision) (l : Word64) : (r.writeBin p l).sign = r.sign := rfl
@[simp] theorem writeBin_rawexp (p : Precision) (l : Word64) : (r.writeBin p l).rawexp = r.rawexp := rfl
@[simp] theorem writeBin_bias (p : Precision) (l : Word64) : (r.writeBin p l).bias = r.bias := rfl
@[simp] theorem writeBin_actexp (p : Precision) (l : Word64) : (r.writeBin p l).actexp = r.actexp := rfl
@[simp] theorem writeBin_mant (p : Precision) (l : Word64) : (r.writeBin p l).mant = r.mant := rfl
@[simp] theorem writeBin_cls (p : Precision) (l : Word64) : (r.writeBin p l).cls = r.cls := rfl
@[simp] theorem writeBin_special (p : Precision) (l : Word64) : (r.writeBin p l).special = r.special := rfl
@[simp] theorem writeBin_implicit (p : Precision) (l : Word64) : (r.writeBin p l).implicit = r.implicit := rfl
@[simp] theorem writeBin_abs (p : Precision) (l : Word64) : (r.writeBin p l).abs = r.abs := rfl
@[simp] theorem writeBin_hex (p : Precision) (l : Word64) : (r.writeBin p l).hex = r.hex := rfl
@[simp] theorem writeBin_bin (p : Precision) (l : Word64) : (r.writeBin p l).bin = some (binOf p l) := rfl

end ResultUpdates

end Sys2Proof.Machine
end

