-- ==== Sys2Proof/Laws/Ops.lean ====
section
/-! SUPPORT. One spec lemma per shared operation: everything it can do, for later proofs to cite. -/

namespace Sys2Proof.Machine

section Commands
variable {c : CmdWord} {op : Word64 → Results → Results} {s t : State}

theorem runCommand_unwritten (h : s.dataIn = none) : runCommand c op s = .fault (.unwrittenOperand c) := by
  simp [runCommand, h]

theorem runCommand_written {d : Word64} (h : s.dataIn = some d) :
    runCommand c op s = .next (s.complete (op d Results.invalid)) := by
  simp [runCommand, h]
  rfl

theorem runCommand_next (h : runCommand c op s = .next t) :
    ∃ d, s.dataIn = some d ∧ t = s.complete (op d Results.invalid) := by
  cases hd : s.dataIn with
  | none => simp [runCommand_unwritten hd] at h
  | some d =>
    rw [runCommand_written hd] at h
    exact ⟨d, rfl, (Host.Outcome.next.inj h).symm⟩

theorem runCommand_not_refused {r : Refusal} : runCommand c op s ≠ .refused r := by
  cases hd : s.dataIn with
  | none => simp [runCommand_unwritten hd]
  | some d => simp [runCommand_written hd]

end Commands

/-- What each command writes, over the registers it finds: the second argument of `runCommand` in its meaning. -/
def commandOp (i : Instr) (k : Nat) : Word64 → Results → Results :=
  match i with
  | .convertS   => convertOp .single k
  | .convertD   => convertOp .double k
  | .encodeS    => encodeOp .single k
  | .encodeD    => encodeOp .double k
  | .decomposeS => decomposeOp .single
  | .decomposeD => decomposeOp .double
  | .renderHexS => renderHexOp .single
  | .renderHexD => renderHexOp .double
  | .renderBinS => renderBinOp .single
  | .renderBinD => renderBinOp .double

theorem exec_eq_runCommand (i : Instr) (s : State) : exec i s = runCommand (encode i) (commandOp i s.instNo) s := by
  cases i <;> rfl

section Exec
variable {i : Instr} {s t : State}

theorem exec_unwritten (h : s.dataIn = none) : exec i s = .fault (.unwrittenOperand (encode i)) := by
  rw [exec_eq_runCommand, runCommand_unwritten h]

theorem exec_written {d : Word64} (h : s.dataIn = some d) :
    exec i s = .next (s.complete (commandOp i s.instNo d Results.invalid)) := by
  rw [exec_eq_runCommand, runCommand_written h]

theorem exec_next (h : exec i s = .next t) :
    ∃ d, s.dataIn = some d ∧ t = s.complete (commandOp i s.instNo d Results.invalid) := by
  rw [exec_eq_runCommand] at h
  exact runCommand_next h

end Exec

section Ports
variable {s t : State}

theorem portWriteCmd_rejected {c : CmdWord} {e : DecodeError} (h : decode c = .error e) :
    portWriteCmd c s = .next (illegalCommand s) := by
  simp [portWriteCmd, h]

theorem portWriteCmd_accepted {c : CmdWord} {i : Instr} (h : decode c = .ok i) : portWriteCmd c s = exec i s := by
  simp [portWriteCmd, h]

/-- A read depends on `STATUS` and the results alone (R26, R29). -/
theorem readReg_congr {s t : State} (hs : t.status = s.status) (hr : t.results = s.results) (r : ResultReg) :
    t.readReg r = s.readReg r := by
  cases r <;> simp [State.readReg, hs, hr]

@[simp] theorem readReg_withPending (s : State) (es : List Event) (r : ResultReg) :
    (s.withPending es).readReg r = s.readReg r := readReg_congr rfl rfl r

@[simp] theorem readReg_logRead (s : State) (x : ReadRecord) (r : ResultReg) :
    (s.logRead x).readReg r = s.readReg r := readReg_congr rfl rfl r

theorem portRead_next {r : ResultReg} (h : portRead r s = .next t) :
    ∃ v, s.readReg r = some v ∧ t = s.logRead { reg := r, value := v } := by
  unfold portRead at h
  split at h
  · next v hv => exact ⟨v, hv, (Host.Outcome.next.inj h).symm⟩
  · simp at h

/-- Everything an event can do when it answers a next state. -/
theorem perform_next {e : Event} (h : perform e s = .next t) :
    (∃ v, e = .host (.writeData v) ∧ t = s.withDataIn v) ∨
    (∃ c err, e = .host (.writeCmd c) ∧ decode c = .error err ∧ t = illegalCommand s) ∨
    (∃ c i d, e = .host (.writeCmd c) ∧ decode c = .ok i ∧ s.dataIn = some d ∧
      t = s.complete (commandOp i s.instNo d Results.invalid)) ∨
    (∃ r v, e = .host (.read r) ∧ s.readReg r = some v ∧ t = s.logRead { reg := r, value := v }) ∨
    (e = .reset ∧ t = s.resetBlock) := by
  match e with
  | .reset => exact .inr (.inr (.inr (.inr ⟨rfl, (Host.Outcome.next.inj h).symm⟩)))
  | .host (.writeData v) => exact .inl ⟨v, rfl, (Host.Outcome.next.inj h).symm⟩
  | .host (.readCmd) => simp [perform, hostAct] at h
  | .host (.read r) =>
    obtain ⟨v, hv, ht⟩ := portRead_next (r := r) h
    exact .inr (.inr (.inr (.inl ⟨r, v, rfl, hv, ht⟩)))
  | .host (.writeCmd c) =>
    have h' : portWriteCmd c s = .next t := h
    cases hc : decode c with
    | error err =>
      rw [portWriteCmd_rejected hc] at h'
      exact .inr (.inl ⟨c, err, rfl, hc, (Host.Outcome.next.inj h').symm⟩)
    | ok i =>
      rw [portWriteCmd_accepted hc] at h'
      obtain ⟨d, hd, ht⟩ := exec_next h'
      exact .inr (.inr (.inl ⟨c, i, d, rfl, hc, hd, ht⟩))

/-- Everything a step can do when it answers a next state. -/
theorem step_next (h : step s = .next t) :
    s.faults = [] ∧
      ((s.pending = [] ∧ t = s) ∨ ∃ e es, s.pending = e :: es ∧ perform e (s.withPending es) = .next t) := by
  unfold step at h
  split at h
  · simp at h
  · next hf =>
    refine ⟨hf, ?_⟩
    unfold takeEvent at h
    split at h
    · next hp => exact .inl ⟨hp, (Host.Outcome.next.inj h).symm⟩
    · next e es hp => exact .inr ⟨e, es, hp, h⟩

theorem step_stopped {f : Fault} {fs : List Fault} (h : s.faults = f :: fs) : step s = .fault f := by
  simp [step, h]

theorem step_event {e : Event} {es : List Event} (hf : s.faults = []) (hp : s.pending = e :: es) :
    step s = perform e (s.withPending es) := by
  simp [step, takeEvent, hf, hp]

end Ports

end Sys2Proof.Machine
end

