-- ==== Sys2Proof/Laws/PerInstr.lean ====
section
/-! SUPPORT. Statements made of every command, one lemma per constructor (LAWS.json). -/

namespace Sys2Proof.Laws.RoundTrip

/-- The fields of the command pass the check of R50, splitting its word gives them back, and the word decodes to the
command. -/
def Statement (i : Instr) : Prop :=
  i.wellFormed = true ∧ splitWord (encode i) = i.fields ∧ decode (encode i) = .ok i

theorem convertS : Statement .convertS := ⟨rfl, rfl, rfl⟩
theorem convertD : Statement .convertD := ⟨rfl, rfl, rfl⟩
theorem encodeS : Statement .encodeS := ⟨rfl, rfl, rfl⟩
theorem encodeD : Statement .encodeD := ⟨rfl, rfl, rfl⟩
theorem decomposeS : Statement .decomposeS := ⟨rfl, rfl, rfl⟩
theorem decomposeD : Statement .decomposeD := ⟨rfl, rfl, rfl⟩
theorem renderHexS : Statement .renderHexS := ⟨rfl, rfl, rfl⟩
theorem renderHexD : Statement .renderHexD := ⟨rfl, rfl, rfl⟩
theorem renderBinS : Statement .renderBinS := ⟨rfl, rfl, rfl⟩
theorem renderBinD : Statement .renderBinD := ⟨rfl, rfl, rfl⟩

end Sys2Proof.Laws.RoundTrip
end

