-- ==== Sys2Proof/Tests/Slice0.lean ====
section
/-! SUPPORT. The model's own tests. Expected values are transcribed from the spec: 95_test_vectors.md, the examples and
corner cases of the rules, and opcode_table.json. The last part shows, for each statement with hypotheses, a case that
meets them. -/

namespace Sys2Proof.Tests

open Sys2Proof.Machine Sys2Proof.Claims

/-- After reset and `PortWrite(DATA_IN, d)`. -/
def st (d : Word64) : State := { State.reset with dataIn := some d }

/-- The host is about to do `es`. -/
def queue (es : List Event) (s : State) : State := { s with pending := es }

def resultsOf : Host.Outcome State Fault Refusal → Option Results
  | .next t => some t.results
  | .fault _ => none
  | .refused _ => none

def statusOf : Host.Outcome State Fault Refusal → Option (BitVec 2)
  | .next t => some t.status
  | .fault _ => none
  | .refused _ => none

def faultOf : Host.Outcome State Fault Refusal → Option Fault
  | .next _ => none
  | .fault f => some f
  | .refused _ => none

/-- The text in a string register. -/
def hexText (r : Results) : Option (List Char) :=
  r.hex.map fun h => (h.bytes.toList.take h.len.toNat).map fun b => Char.ofNat b.toNat

def binText (r : Results) : Option (List Char) :=
  r.bin.map fun b => (b.bytes.toList.take b.len.toNat).map fun c => Char.ofNat c.toNat

/-! ## WellFormed: one ill-formed term for each check -/

theorem test_wf_refuses_reserved_bits : CmdFields.wellFormed { rsv := 1, prec := 0, op := 0 } = false := by decide
theorem test_wf_refuses_op5 : CmdFields.wellFormed { rsv := 0, prec := 1, op := 5 } = false := by decide
theorem test_wf_refuses_op6 : CmdFields.wellFormed { rsv := 0, prec := 0, op := 6 } = false := by decide
theorem test_wf_refuses_op7 : CmdFields.wellFormed { rsv := 0, prec := 0, op := 7 } = false := by decide
theorem test_wf_accepts_every_command : allInstrs.all Instr.wellFormed = true := by decide

/-! ## Decoding: RSV, P, OP bit by bit from opcode_table.json; illegal words from 95_test_vectors.md 2.6 and P4 -/

theorem test_decode_convertS : decode (0b0000#4 ++ 0b0#1 ++ 0b000#3) = .ok .convertS := by decide
theorem test_decode_convertD : decode (0b0000#4 ++ 0b1#1 ++ 0b000#3) = .ok .convertD := by decide
theorem test_decode_encodeS : decode (0b0000#4 ++ 0b0#1 ++ 0b001#3) = .ok .encodeS := by decide
theorem test_decode_encodeD : decode (0b0000#4 ++ 0b1#1 ++ 0b001#3) = .ok .encodeD := by decide
theorem test_decode_decomposeS : decode (0b0000#4 ++ 0b0#1 ++ 0b010#3) = .ok .decomposeS := by decide
theorem test_decode_decomposeD : decode (0b0000#4 ++ 0b1#1 ++ 0b010#3) = .ok .decomposeD := by decide
theorem test_decode_renderHexS : decode (0b0000#4 ++ 0b0#1 ++ 0b011#3) = .ok .renderHexS := by decide
theorem test_decode_renderHexD : decode (0b0000#4 ++ 0b1#1 ++ 0b011#3) = .ok .renderHexD := by decide
theorem test_decode_renderBinS : decode (0b0000#4 ++ 0b0#1 ++ 0b100#3) = .ok .renderBinS := by decide
theorem test_decode_renderBinD : decode (0b0000#4 ++ 0b1#1 ++ 0b100#3) = .ok .renderBinD := by decide
theorem test_decode_reserved_ops :
    decode 0x05 = .error (.reservedOp 5) ∧ decode 0x07 = .error (.reservedOp 7) ∧
    decode 0x0D = .error (.reservedOp 5) := by decide
theorem test_decode_reserved_bits :
    decode 0x10 = .error (.reservedBits 1) ∧ decode 0xF8 = .error (.reservedBits 15) ∧
    decode 0x15 = .error (.reservedBits 1) := by decide
theorem test_decode_table_word : decodeTableWord 8 0x0C = some .renderBinD ∧ decodeTableWord 8 0x05 = none := by decide
theorem test_fetch_word_runs :
    (step (State.reset.withFetchWord 8 0x0A) matches .next _) = true ∧
    (step (State.reset.withFetchWord 8 0x00) matches .next _) = true := by decide +kernel

/-! ## Commands: 95_test_vectors.md 2.1 to 2.5 -/

theorem test_encodeS_tie_to_even :   -- 1 + 3*2^-24
    resultsOf (exec .encodeS (st 0x3FF0000030000000)) =
      some { Results.invalid with width := some 0, layout := some 0x3F800002 } := by decide +kernel
theorem test_encodeS_negative_underflow :   -- minus the smallest binary64 denormal
    (resultsOf (exec .encodeS (st 0x8000000000000001))).map (·.layout) = some (some 0x80000000) := by decide +kernel
theorem test_encodeD_copies_signalling_nan :
    resultsOf (exec .encodeD (st 0x7FF0000000000001)) =
      some { Results.invalid with width := some 1, layout := some 0x7FF0000000000001 } := by decide +kernel
theorem test_decomposeS_denormal :   -- 0x007FFFFF, with the upper half of DATA_IN ignored
    resultsOf (exec .decomposeS (st 0xFFFFFFFF007FFFFF)) =
      some { Results.invalid with
          width := some 0, layout := some 0x007FFFFF, sign := some 0, rawexp := some 0,
          bias := some 127, actexp := some 0xF81, mant := some 0x7FFFFF, cls := some 1, implicit := some 0,
          special := some 1 } := by decide +kernel
theorem test_decomposeS_normal :   -- 0xC2ED4000
    resultsOf (exec .decomposeS (st 0xC2ED4000)) =
      some { Results.invalid with
          width := some 0, layout := some 0xC2ED4000, sign := some 1, rawexp := some 133,
          bias := some 127, actexp := some 6, mant := some 0x6D4000, cls := some 2, implicit := some 1,
          special := some 0 } := by decide +kernel
theorem test_decomposeD_nan :
    resultsOf (exec .decomposeD (st 0x7FF8000000000000)) =
      some { Results.invalid with
          width := some 1, layout := some 0x7FF8000000000000, sign := some 0,
          rawexp := some 2047, bias := some 1023, actexp := some 0x400, mant := some 0x8000000000000,
          cls := some 4, implicit := some 2, special := some 1 } := by decide +kernel
theorem test_decomposeD_zero :
    resultsOf (exec .decomposeD (st 0x8000000000000000)) =
      some { Results.invalid with
          width := some 1, layout := some 0x8000000000000000, sign := some 1,
          rawexp := some 0, bias := some 1023, actexp := some 0xC01, mant := some 0, cls := some 0,
          implicit := some 0, special := some 1 } := by decide +kernel
theorem test_renderHexS_bytes :   -- byte form of S1
    ((resultsOf (exec .renderHexS (st 0x3F800000))).bind (·.hex)).map (fun h => (h.bytes.toList, h.len)) =
      some ([0x33, 0x46, 0x38, 0x30, 0x30, 0x30, 0x30, 0x30, 0, 0, 0, 0, 0, 0, 0, 0], 8) := by decide +kernel
theorem test_renderHexD_text :
    (resultsOf (exec .renderHexD (st 0xC05DA80000000000))).map hexText =
      some (some "C05DA80000000000".toList) := by decide +kernel
theorem test_renderBinS_text :
    (resultsOf (exec .renderBinS (st 0x3DCCCCCD))).map binText =
      some (some "0 01111011 10011001100110011001101".toList) := by decide +kernel
theorem test_renderBinD_text :
    (resultsOf (exec .renderBinD (st 0xC05DA80000000000))).map binText =
      some (some "1 10000000101 1101101010000000000000000000000000000000000000000000".toList) := by decide +kernel
theorem test_convertS_overflow_keeps_abs :   -- 0xC7EFFFFFF0000000, R89
    (resultsOf (exec .convertS (st 0xC7EFFFFFF0000000))).map (fun r => (r.layout, r.cls, r.actexp, r.abs)) =
      some (some 0xFF800000, some 3, some 128, some 0x47EFFFFFF0000000) := by decide +kernel
theorem test_convertS_one :   -- S1
    (resultsOf (exec .convertS (st 0x3FF0000000000000))).map (fun r => (r.cls, hexText r, binText r)) =
      some (some 2, some "3F800000".toList, some "0 01111111 00000000000000000000000".toList) := by decide +kernel
theorem test_convertD_negative_infinity :   -- P4
    (resultsOf (exec .convertD (st 0xFFF0000000000000))).map
        (fun r => (r.sign, r.rawexp, r.cls, r.implicit, r.abs)) =
      some (some 1, some 2047, some 3, some 2, some 0x7FF0000000000000) := by decide +kernel
theorem test_convertD_negative_zero :
    (resultsOf (exec .convertD (st 0x8000000000000000))).map (fun r => (r.layout, r.cls, r.abs, r.special)) =
      some (some 0x8000000000000000, some 0, some 0, some 1) := by decide +kernel
theorem test_narrow_default_nan :   -- the three default-NaN rows of 2.1
    narrow32With narrowNanDefault 0x7FF8000000000000 = 0x7FC00000 ∧
    narrow32With narrowNanDefault 0x7FF0000000000001 = 0x7FC00000 ∧
    narrow32With narrowNanDefault 0xFFF4000020000000 = 0xFFE00001 := by decide +kernel
theorem test_narrow_boundaries :   -- overflow threshold and the value below it; tie at 2^-150 and just above it
    narrow32 0 0x47EFFFFFF0000000 = 0x7F800000 ∧ narrow32 0 0x47EFFFFFEFFFFFFF = 0x7F7FFFFF ∧
    narrow32 0 0x3690000000000000 = 0 ∧ narrow32 0 0x3690000000000001 = 1 ∧
    narrow32 0 0x380FFFFFE0000000 = 0x00800000 := by decide +kernel
theorem test_double_rounding : narrow32 0 0x3FF0000010000000 = 0x3F800000 := by decide +kernel   -- R67
theorem test_exp_bit_string :   -- BIN "0 01111011 …" of 0x3DCCCCCD: the exponent bit string
    expBitString .single 123 = [false, true, true, true, true, false, true, true] := by decide

/-! ## Faults and illegal words: 95_test_vectors.md 2.6, P5 -/

theorem test_illegal_wins_over_missing_operand :
    statusOf (step (queue [.host (.writeCmd 0x05)] State.reset)) = some 2 := by decide
theorem test_unwritten_operand :
    faultOf (step (queue [.host (.writeCmd 0x00)] State.reset)) = some (.unwrittenOperand 0x00) := by decide
theorem test_unwritten_operand_leaves_status :
    (advance (queue [.host (.writeCmd 0x01)] State.reset)).status = 0 ∧
    (advance (queue [.host (.writeCmd 0x01)] State.reset)).faults = [.unwrittenOperand 0x01] := by decide
theorem test_read_layout_after_reset :
    faultOf (step (queue [.host (.read .layout)] State.reset)) = some (.readInvalid .layout) := by decide
theorem test_read_status_after_reset :
    (advance (queue [.host (.read .status)] State.reset)).received = [⟨.status, .word 2 0⟩] := by decide
theorem test_read_cmd_refused :
    (match step (queue [.host .readCmd] State.reset) with | .refused r => some r | _ => none) = some .readOfCmd := by
  decide

/-! ## Host scripts: 95_test_vectors.md section 3 -/

theorem test_script_data_line :   -- P1
    parseLine "DATA 0x3FF0000000000000        ; DATA_IN <- 1.0".toList = some (.data 0x3FF0000000000000) := by
  decide +kernel
theorem test_script_lines :
    ["RENDER_HEX.S ; CMD".toList, "CMD 0x15".toList, "READ HEX_LEN".toList, "; start".toList,
      "CONVERT.S 0x3FF0000000000000".toList, "convert.S".toList, "READ CMD".toList].map parseLine =
    [some (.command .renderHexS), some (.cmd 0x15), some (.read .hexLen), some .comment,
      some (.pseudo .convertS 0x3FF0000000000000), none, some .readCmd] := by decide +kernel

/-! ## Witnesses: a case that meets the hypotheses of each statement that has some -/

/-- A state in which a command has been completed. -/
def converted : State :=
  { st 0x3FF0000000000000 with status := 1, results := convertOp .double 0 0x3FF0000000000000 Results.invalid }

theorem exec_some (i : Instr) (d : Word64) : ∃ t, exec i (st d) = .next t := ⟨_, exec_written rfl⟩

theorem test_wit_IllegalWord_op : IllegalWord 0x05 ∧ IllegalWord 0x0F := by unfold IllegalWord; decide
theorem test_wit_IllegalWord_rsv : IllegalWord 0x10 ∧ IllegalWord 0xF8 := by unfold IllegalWord; decide
theorem test_wit_not_IllegalWord : ¬ IllegalWord 0x0C ∧ State.reset.dataIn = none := by unfold IllegalWord; decide
theorem test_wit_StepRunsDecodedCommand :
    let s := queue [.host (.writeCmd 0x09), .reset] (st 7)
    s.faults = [] ∧ s.pending = .host (.writeCmd 0x09) :: [.reset] ∧ decode 0x09 = .ok .encodeD ∧
      Instr.encodeD.wellFormed = true := by decide
theorem test_wit_IllegalCommandIsReportedAndNotSticky :
    let s := queue [.host (.writeCmd 0x1C)] (st 7)
    s.faults = [] ∧ s.pending = .host (.writeCmd 0x1C) :: [] ∧ IllegalWord 0x1C ∧ s.dataIn = some 7 := by
  unfold IllegalWord; decide
theorem test_wit_PseudoInstructionIsDataThenCommand :
    let s := queue ((ScriptLine.pseudo .convertS 5).events ++ []) State.reset
    s.faults = [] ∧ s.pending = (ScriptLine.pseudo .convertS 5).events ++ [] := by decide
theorem test_wit_operand_missing_and_present : State.reset.dataIn = none ∧ (st 7).dataIn = some 7 := by decide
theorem test_wit_exec_next : ∀ i, ∃ t, exec i (st 0x3FF0000000000000) = .next t := fun i => exec_some i _
theorem test_wit_CommandsWriteTheirColumnOfTheTable :
    (∃ t, exec .renderBinS (st 7) = .next t) ∧ (∃ t, exec .renderHexD (st 7) = .next t) ∧
    IllegalWord 0x06 ∧ (∃ t, portWriteCmd 0x06 State.reset = .next t) :=
  ⟨exec_some _ _, exec_some _ _, by unfold IllegalWord; decide, ⟨_, rfl⟩⟩
theorem test_wit_ResultsDependOnWordAndOperandOnly :
    converted.dataIn = (st 0x3FF0000000000000).dataIn ∧ converted.instNo = (st 0x3FF0000000000000).instNo ∧
    converted ≠ st 0x3FF0000000000000 := ⟨rfl, rfl, fun h => absurd (congrArg State.status h) (by decide)⟩
theorem test_wit_DecomposeIsIdempotent :
    (st 7).dataIn = ({ st 7 with instNo := 3 } : State).dataIn ∧ ∃ t, exec .decomposeS (st 7) = .next t :=
  ⟨rfl, exec_some _ _⟩
theorem test_wit_CommandsForgetOldResults :
    (queue [.host (.writeCmd 0x04)] converted).pending = .host (.writeCmd 0x04) :: [] := rfl
theorem test_wit_ConvertIsTheCompositionOfTheOthers : ∃ u : State, u.dataIn = some 0x3F800000 := ⟨st 0x3F800000, rfl⟩
theorem test_wit_AbsDenotesTheAbsoluteValue :
    value64 0xBFF0000000000000 = some (-1) ∧ IsNan64 0xFFF0000000000001 := by
  unfold IsNan64; decide +kernel
theorem test_wit_RenderingsDetermineTheLayout :
    ∃ s' u', exec .renderBinD (st 7) = .next s' ∧ exec .renderBinD { st 7 with instNo := 1 } = .next u' ∧
      s'.results.bin = u'.results.bin := ⟨_, _, exec_written rfl, exec_written rfl, rfl⟩
theorem test_wit_RenderingsDetermineTheLayout_single :
    ∃ s' u', exec .renderHexS (st 7) = .next s' ∧ exec .renderHexS { st 7 with instNo := 1 } = .next u' ∧
      s'.results.hex = u'.results.hex := ⟨_, _, exec_written rfl, exec_written rfl, rfl⟩
theorem test_wit_NaN_bounds :   -- the first and the last mantissa of R62's constraint, and a non-NaN
    IsNan64 0x7FF0000000000001 ∧ IsNan64 0xFFFFFFFFFFFFFFFF ∧ ¬ IsNan64 0x7FF0000000000000 ∧
    IsNan32 0x7F800001 ∧ IsNan32 0xFFFFFFFF := by unfold IsNan64 IsNan32; decide
theorem test_wit_NarrowingShiftsByAtLeastOne :
    (1 < 2047 ∧ 0 < 2 ^ 52 ∧ ¬ (1 = 0 ∧ 0 = 0)) ∧ (0 < 2047 ∧ 1 < 2 ^ 52 ∧ ¬ (0 = 0 ∧ 1 = 0)) := by decide
theorem test_wit_NarrowingFollowsTheIntegerAlgorithm :
    let d := 0x0000000000000001#64
    (0 = (d.extractLsb' 52 11).toNat ∧ 1 = (d.extractLsb' 0 52).toNat) ∧ 0 ≠ 2047 ∧ ¬ (0 = 0 ∧ 1 = 0) := by decide
theorem test_wit_NarrowingRoundsToNearestEven :
    value64 0x3FF0000000000000 = some 1 ∧ |(1 : ℚ)| < overflowAt ∧ value32 0x7F7FFFFF = some maxFinite := by
  decide +kernel
theorem test_wit_NarrowingOverflow_at_threshold :
    value64 0xC7EFFFFFF0000000 = some (-overflowAt) ∧ overflowAt ≤ |(-overflowAt)| := by decide +kernel
theorem test_wit_NarrowingOverflow_at_maxFinite :
    value64 0x47EFFFFFE0000000 = some maxFinite ∧ maxFinite ≤ |maxFinite| ∧ |maxFinite| < overflowAt := by
  decide +kernel
theorem test_wit_NarrowingUnderflow_zero :
    value64 0x3690000000000000 = some zeroUpTo ∧ zeroUpTo ≠ 0 ∧ |zeroUpTo| ≤ zeroUpTo := by decide +kernel
theorem test_wit_NarrowingUnderflow_denormal :   -- 2^-149, the smallest denormal
    value64 0x36A0000000000000 = some (2 * zeroUpTo) ∧ zeroUpTo < |2 * zeroUpTo| ∧ |2 * zeroUpTo| < normalFrom := by
  decide +kernel
theorem test_wit_NarrowingUnderflow_normal :
    value64 0x380FFFFFE0000000 = some normalFrom ∧ normalFrom ≤ |normalFrom| ∧ |normalFrom| < minNormal := by
  decide +kernel
theorem test_wit_NarrowingUnderflow_binary64_denormal :
    (0x000FFFFFFFFFFFFF#64).extractLsb' 52 11 = 0#11 ∧ (value64 0x000FFFFFFFFFFFFF).isSome = true := by
  decide +kernel
theorem test_wit_RepresentableValuesNarrowExactly :
    denote .double 0xC05DA80000000000 ≠ .nan ∧
    denote .single ((0xC2ED4000#32).setWidth 64) = denote .double 0xC05DA80000000000 ∧
    denote .single ((narrow32 0 0xC05DA80000000000).setWidth 64) = denote .double 0xC05DA80000000000 := by
  decide +kernel
theorem test_wit_PortAccesses_write :
    let s := queue [.host (.writeData 9)] State.reset
    s.faults = [] ∧ s.pending = .host (.writeData 9) :: [] := by decide
theorem test_wit_PortAccesses_read :
    let s := queue [.host (.read .status)] State.reset
    s.faults = [] ∧ s.pending = .host (.read .status) :: [] ∧ ∃ t, step s = .next t := ⟨rfl, rfl, _, rfl⟩
theorem test_wit_PortAccesses_command :
    let s := queue [.host (.writeCmd (encode .encodeS))] (st 9)
    s.faults = [] ∧ s.pending = .host (.writeCmd (encode .encodeS)) :: [] ∧ s.dataIn = some 9 := by decide
theorem test_wit_ReadsReturnTheRegister :
    let s := queue [.host (.read .abs), .host (.read .abs)] converted
    s.faults = [] ∧ s.pending = .host (.read .abs) :: .host (.read .abs) :: [] ∧
      IsReadOf s .abs (.word 64 0x3FF0000000000000) := ⟨rfl, rfl, _, rfl, rfl⟩
theorem test_wit_IsReadOf_words :   -- CONVERT.D of 1.0 (95_test_vectors.md:75, :104)
    IsReadOf converted .status (.word 2 1) ∧ IsReadOf converted .width (.word 1 1) ∧
    IsReadOf converted .layout (.word 64 0x3FF0000000000000) ∧ IsReadOf converted .sign (.word 1 0) ∧
    IsReadOf converted .rawexp (.word 11 1023) ∧ IsReadOf converted .bias (.word 11 1023) ∧
    IsReadOf converted .actexp (.word 12 0) ∧ IsReadOf converted .mant (.word 52 0) ∧
    IsReadOf converted .cls (.word 3 2) ∧ IsReadOf converted .special (.word 1 0) ∧
    IsReadOf converted .implicit (.word 2 1) := by
  refine ⟨rfl, ?_, ?_, ?_, ?_, ?_, ?_, ?_, ?_, ?_, ?_⟩ <;> exact ⟨_, rfl, rfl⟩
theorem test_wit_IsReadOf_strings :   -- the renderings of 1.0 .D (95_test_vectors.md:133)
    IsReadOf converted .hexLen (.word 5 16) ∧ IsReadOf converted .binLen (.word 7 66) ∧
    (∃ h : HexReg, IsReadOf converted .hex (.hexString h) ∧ h.bytes[0] = 0x33 ∧ h.len = 16) ∧
    ∃ b : BinReg, IsReadOf converted .bin (.binString b) ∧ b.bytes[1] = 0x20 ∧ b.len = 66 :=
  ⟨⟨_, _, rfl, rfl⟩, ⟨_, _, rfl, rfl⟩, ⟨_, ⟨_, _, rfl, rfl⟩, rfl, rfl⟩, ⟨_, ⟨_, _, rfl, rfl⟩, rfl, rfl⟩⟩
theorem test_wit_ReadOfAnInvalidRegisterFaults :
    let s := queue [.host (.read .sign)] State.reset
    s.faults = [] ∧ s.pending = .host (.read .sign) :: [] ∧ s.readReg .sign = none ∧
      (∃ t, exec .encodeS (st 7) = .next t) ∧ writeTable .encodeS .sign = false :=
  ⟨rfl, rfl, rfl, exec_some _ _, rfl⟩
theorem test_wit_CommandWithoutOperandFaultsForGood :
    let s := queue [.host (.writeCmd (encode .encodeS))] State.reset
    s.faults = [] ∧ s.pending = .host (.writeCmd (encode .encodeS)) :: [] ∧ s.dataIn = none := by decide
theorem test_wit_OperandIsLostByReset :
    ∃ t, step (queue [.reset] (st 7)) = .next t ∧ (queue [.reset] (st 7)).dataIn ≠ none ∧ t.dataIn = none :=
  ⟨_, rfl, by decide, rfl⟩
theorem test_wit_OperandPersists :
    let s := queue [.host (.writeCmd 0x03)] (st 7)
    (∃ t, step s = .next t) ∧ s.pending.head? ≠ some .reset ∧
      ∀ v, s.pending.head? ≠ some (.host (.writeData v)) := ⟨⟨_, rfl⟩, by decide, fun _ => by simp [queue]⟩
theorem test_wit_HostActionsEndInTheListedOutcomes : HostAction.read .hex ≠ .readCmd := by decide
theorem test_wit_OnlyAReadOfCmdIsRefused :
    (queue [.host .readCmd] State.reset).faults = [] ∧
    (queue [.host .readCmd] State.reset).pending.head? = some (.host .readCmd) := by decide
theorem test_wit_FaultsAreNeverCleared :
    (advance (queue [.host (.read .hex)] State.reset)).faults = .readInvalid .hex :: [] := by decide
theorem test_wit_FaultsAreNeverCleared_illegal :
    IllegalWord 0x0E ∧ ∃ t, portWriteCmd 0x0E converted = .next t := ⟨by unfold IllegalWord; decide, _, rfl⟩
theorem test_wit_ResetStateIsBlank :   -- an operand missing elsewhere than at reset; a result register
    { converted with dataIn := none }.dataIn = none ∧ ResultReg.width ≠ .status := by decide
theorem test_wit_ResetPutsTheBlockIntoItsResetState :
    (queue [.reset] converted).faults = [] ∧ (queue [.reset] converted).pending = .reset :: [] := ⟨rfl, rfl⟩
theorem test_wit_IdleBlockStaysAsItIs : converted.faults = [] ∧ converted.pending = [] := ⟨rfl, rfl⟩

/-- The invariant holds of a state with every register valid, so it shuts no completed command out. -/
theorem test_wit_Inv : Inv converted where
  status_legal := .inr (.inl rfl)
  done_operand := fun _ => by simp [converted, st]
  done_results := fun _ => ⟨.double, 0x3FF0000000000000, rfl, rfl, by decide, .inr rfl, .inr rfl, .inr rfl,
    fun a h => ⟨⟨0x3FF0000000000000, (Option.some.inj h).symm, rfl⟩, by simp [converted, convertOp],
      by simp [converted, convertOp], by simp [converted, convertOp]⟩⟩
  blank := fun h => absurd rfl h

theorem test_wit_StepKeepsTheInvariant :
    ∃ t, step (queue [.host (.writeCmd 0x02)] converted) = .next t := ⟨_, rfl⟩
theorem test_wit_ReservedCodesAreNeverProduced : converted.results.width = some 1 ∧
    ({ Results.invalid with width := some 0 } : Results).width = some 0 := ⟨rfl, rfl⟩
theorem test_wit_InstancesAreIndependent :
    let p : Platform := [queue [.host (.writeData 1)] State.reset, queue [.host (.writeData 2)] State.reset]
    (∃ q, Platform.stepAt 0 p = .next q) ∧ (∃ r, Platform.stepAt 1 p = .next r) ∧ (0 : Nat) ≠ 1 :=
  ⟨⟨_, rfl⟩, ⟨_, rfl⟩, by decide⟩
theorem test_wit_PlatformResetsEveryInstance : Platform.reset[0]? = some State.reset := by
  simp [Platform.reset, Config.nInstances, State.resetInstance, State.reset]

end Sys2Proof.Tests
end

section
/-! PROOFS. The state family (10_state.md): which registers a command makes valid (R19), what its outcome depends on
(R26), and the reset state (R31). -/

namespace Sys2Proof.Machine

open Sys2Proof.Claims

/-! ### The `CMD` write of a legal and of an illegal word -/

theorem decode_encode (i : Instr) : decode (encode i) = .ok i := by cases i <;> rfl

theorem portWriteCmd_encode (i : Instr) (s : State) : portWriteCmd (encode i) s = exec i s :=
  portWriteCmd_accepted (decode_encode i)

theorem portWriteCmd_encode_unwritten (i : Instr) {s : State} (h : s.dataIn = none) :
    portWriteCmd (encode i) s = .fault (.unwrittenOperand (encode i)) := by
  rw [portWriteCmd_encode, exec_unwritten h]

theorem instrOfOp_reserved {op : BitVec 3} (p : Precision) (h : 5 ≤ op.toNat) :
    instrOfOp op p = .error (.reservedOp op) := by
  obtain rfl | rfl | rfl : op = 5#3 ∨ op = 6#3 ∨ op = 7#3 := by bv_omega
  all_goals cases p <;> rfl

theorem decode_illegalWord {c : CmdWord} (h : IllegalWord c) : ∃ e, decode c = .error e := by
  by_cases hrsv : (splitWord c).rsv = 0
  · have hop : 5 ≤ (splitWord c).op.toNat := h.resolve_right (not_not_intro hrsv)
    exact ⟨_, (if_pos hrsv).trans (instrOfOp_reserved _ hop)⟩
  · exact ⟨_, if_neg hrsv⟩

theorem portWriteCmd_illegalWord {c : CmdWord} (h : IllegalWord c) (s : State) :
    portWriteCmd c s = .next (illegalCommand s) := by
  obtain ⟨e, he⟩ := decode_illegalWord h
  exact portWriteCmd_rejected he

/-! ### The valid bits: what each write to the results adds to them -/

section ValidBits
variable (s : State) (r : Results) (p : Precision) (l v : Word64) (q : ResultReg)

theorem readReg_isSome_of_invalid {s : State} (h : s.results = Results.invalid) :
    (s.readReg q).isSome = decide (q = .status) := by
  cases q <;> simp [State.readReg, h]

theorem readReg_isSome_writeLayout : ((s.complete (r.writeLayout p l)).readReg q).isSome =
    (decide (q ∈ [ResultReg.width, .layout]) || ((s.complete r).readReg q).isSome) := by
  cases q <;> simp [State.readReg]

theorem readReg_isSome_writeFields : ((s.complete (r.writeFields p l)).readReg q).isSome =
    (decide (q ∈ [ResultReg.sign, .rawexp, .bias, .actexp, .mant, .cls, .special, .implicit]) ||
      ((s.complete r).readReg q).isSome) := by
  cases q <;> simp [State.readReg]

theorem readReg_isSome_writeAbs : ((s.complete (r.writeAbs v)).readReg q).isSome =
    (decide (q = .abs) || ((s.complete r).readReg q).isSome) := by
  cases q <;> simp [State.readReg]

theorem readReg_isSome_writeHex : ((s.complete (r.writeHex p l)).readReg q).isSome =
    (decide (q ∈ [ResultReg.hex, .hexLen]) || ((s.complete r).readReg q).isSome) := by
  cases q <;> simp [State.readReg]

theorem readReg_isSome_writeBin : ((s.complete (r.writeBin p l)).readReg q).isSome =
    (decide (q ∈ [ResultReg.bin, .binLen]) || ((s.complete r).readReg q).isSome) := by
  cases q <;> simp [State.readReg]

end ValidBits

/-- The column of the table of R19, as the union of the writes that make up the command. -/
theorem readReg_isSome_commandOp (i : Instr) (k : Nat) (d : Word64) (s : State) (q : ResultReg) :
    ((s.complete (commandOp i k d Results.invalid)).readReg q).isSome = writeTable i q := by
  have hblank : ((s.complete Results.invalid).readReg q).isSome = decide (q = .status) :=
    readReg_isSome_of_invalid q rfl
  cases i
  all_goals
    simp only [commandOp, convertOp, encodeOp, decomposeOp, renderHexOp, renderBinOp, readReg_isSome_writeLayout,
      readReg_isSome_writeFields, readReg_isSome_writeAbs, readReg_isSome_writeHex, readReg_isSome_writeBin, hblank]
    cases q <;> rfl

/-! ### The operand layout -/

theorem layoutOperand_single (d : Word64) : layoutOperand .single d = d &&& 0xFFFFFFFF#64 := by
  apply BitVec.eq_of_toNat_eq
  have hmask : d.toNat &&& 0xFFFFFFFF = d.toNat % 2 ^ 32 := Nat.and_two_pow_sub_one_eq_mod d.toNat 32
  simp [layoutOperand, hmask]
  omega

/-- DECOMPOSE, RENDER_HEX and RENDER_BIN write `LAYOUT` with their operand layout (R19). -/
theorem exec_layout_single {i : Instr} {s t : State} {d : Word64}
    (hi : i ∈ [Instr.decomposeS, .renderHexS, .renderBinS]) (hd : s.dataIn = some d) (h : exec i s = .next t) :
    t.results.layout = some (layoutOperand .single d) := by
  obtain rfl := Host.Outcome.next.inj ((exec_written hd).symm.trans h)
  simp only [List.mem_cons, List.not_mem_nil, or_false] at hi
  obtain rfl | rfl | rfl := hi <;> rfl

@[inherit_doc exec_layout_single]
theorem exec_layout_double {i : Instr} {s t : State} {d : Word64}
    (hi : i ∈ [Instr.decomposeD, .renderHexD, .renderBinD]) (hd : s.dataIn = some d) (h : exec i s = .next t) :
    t.results.layout = some d := by
  obtain rfl := Host.Outcome.next.inj ((exec_written hd).symm.trans h)
  simp only [List.mem_cons, List.not_mem_nil, or_false] at hi
  obtain rfl | rfl | rfl := hi <;> rfl

/-! ### Reads of invalid registers -/

theorem portRead_invalid {r : ResultReg} {s : State} (h : s.readReg r = none) :
    portRead r s = .fault (.readInvalid r) := by
  simp [portRead, h]

theorem readReg_reset {r : ResultReg} (hr : r ≠ .status) : State.reset.readReg r = none := by
  have hvalid := readReg_isSome_of_invalid (s := State.reset) r rfl
  simpa [hr] using hvalid

/-! ### The obligations -/

/-- Settles O20: each write adds its own registers to the valid ones, and a command starts with `STATUS` alone. -/
theorem commandsWriteTheirColumnOfTheTable : Obligations.CommandsWriteTheirColumnOfTheTable := by
  refine ⟨fun i s t h => ?_, fun c s t hc h => ?_, fun i s t d hi hd h => ?_, fun i s t d hi hd h => ?_⟩
  · obtain ⟨d, -, rfl⟩ := exec_next h
    exact ⟨rfl, readReg_isSome_commandOp i s.instNo d s⟩
  · obtain rfl := Host.Outcome.next.inj ((portWriteCmd_illegalWord hc s).symm.trans h)
    exact ⟨rfl, fun q => readReg_isSome_of_invalid q rfl⟩
  · rw [exec_layout_single hi hd h, layoutOperand_single]
  · exact exec_layout_double hi hd h

/-- Settles O21: the word alone decides legality, `DATA_IN` alone decides the fault, and the results are `commandOp`
of `instNo` and the operand on the invalidated registers. -/
theorem resultsDependOnWordAndOperandOnly : Obligations.ResultsDependOnWordAndOperandOnly := by
  intro c s u hdata hinst
  cases hc : decode c with
  | error e => exact .inr ⟨_, _, portWriteCmd_rejected hc, portWriteCmd_rejected hc, rfl, rfl⟩
  | ok i =>
    rw [portWriteCmd_accepted hc, portWriteCmd_accepted hc]
    cases hu : u.dataIn with
    | none => exact .inl ⟨_, exec_unwritten (hdata.trans hu), exec_unwritten hu⟩
    | some d =>
      refine .inr ⟨_, _, exec_written (hdata.trans hu), exec_written hu, ?_, ?_⟩
      · rw [complete_status, complete_status]
      · rw [complete_results, complete_results, hinst]

/-- Settles O51: no result register is valid in `State.reset`, and a command needs an operand in every state. -/
theorem resetStateIsBlank : Obligations.ResetStateIsBlank :=
  ⟨rfl, fun i => portWriteCmd_encode_unwritten i rfl, fun i _ h => portWriteCmd_encode_unwritten i h, rfl,
    fun _ hr => ⟨readReg_reset hr, portRead_invalid (readReg_reset hr)⟩⟩

end Sys2Proof.Machine
end

section
/-! PROOFS. The instances family (20_memory.md R42): a platform step replaces the stepped state alone. -/

namespace Sys2Proof.Machine

/-! ### What a platform step can do -/

theorem Platform.stepAt_of_step {k : Nat} {p : Platform} {s t : State} (hk : p[k]? = some s)
    (h : step s = .next t) : Platform.stepAt k p = .next (p.set k t) := by
  simp [Platform.stepAt, hk, h]

/-- A platform step that answers a next platform is a step of the state at place `k`, written back there. -/
theorem Platform.stepAt_next {k : Nat} {p q : Platform} (h : Platform.stepAt k p = .next q) :
    ∃ s t, p[k]? = some s ∧ step s = .next t ∧ q = p.set k t := by
  unfold Platform.stepAt at h
  split at h
  case h_1 => cases h
  case h_2 s hk =>
    split at h
    case h_1 t ht => exact ⟨s, t, hk, ht, (Host.Outcome.next.inj h).symm⟩
    case h_2 => cases h
    case h_3 => cases h

/-- The state at place `k` steps in the same way after the state at another place `j` has been replaced. -/
theorem Platform.stepAt_set_ne {j k : Nat} {p : Platform} {s t : State} (u : State) (hjk : j ≠ k)
    (hk : p[k]? = some s) (h : step s = .next t) :
    Platform.stepAt k (p.set j u) = .next ((p.set j u).set k t) :=
  Platform.stepAt_of_step ((List.getElem?_set_ne hjk).trans hk) h

/-! ### The obligation -/

/-- Settles O58: a platform step is one `List.set`, which keeps the length and the other places, and two of them at
different places commute. -/
theorem instancesAreIndependent : Obligations.InstancesAreIndependent := by
  refine ⟨fun p q k h => ?_, fun p q r j k hjk hj hk => ?_⟩
  · obtain ⟨s, t, -, -, rfl⟩ := Platform.stepAt_next h
    exact ⟨List.length_set, fun j hj => List.getElem?_set_ne hj.symm⟩
  · obtain ⟨s, s', hs, hsstep, rfl⟩ := Platform.stepAt_next hj
    obtain ⟨t, t', ht, htstep, rfl⟩ := Platform.stepAt_next hk
    refine ⟨(p.set j s').set k t', Platform.stepAt_set_ne s' hjk ht htstep, ?_⟩
    rw [List.set_comm s' t' hjk]
    exact Platform.stepAt_set_ne t' hjk.symm hs hsstep

end Sys2Proof.Machine
end

section
/-! PROOFS. The encoding family (30_encoding.md R50): the illegal words are the ones without a decoding. -/

namespace Sys2Proof.Machine

open Sys2Proof.Claims

/-! ### The legal words -/

theorem instrOfOp_accepted {op : BitVec 3} (p : Precision) (h : op.toNat < 5) : ∃ i, instrOfOp op p = .ok i := by
  obtain rfl | rfl | rfl | rfl | rfl : op = 0#3 ∨ op = 1#3 ∨ op = 2#3 ∨ op = 3#3 ∨ op = 4#3 := by bv_omega
  all_goals cases p <;> exact ⟨_, rfl⟩

theorem decode_legalWord {c : CmdWord} (h : ¬ IllegalWord c) : ∃ i, decode c = .ok i := by
  obtain ⟨hop, hrsv⟩ := not_or.mp h
  obtain ⟨i, hi⟩ := instrOfOp_accepted (precisionOfBit (splitWord c).prec) (not_le.mp hop)
  exact ⟨i, (if_pos (not_not.mp hrsv)).trans hi⟩

theorem illegalWord_iff_decode_error (c : CmdWord) : IllegalWord c ↔ ∃ e, decode c = .error e := by
  refine ⟨decode_illegalWord, fun ⟨e, he⟩ => ?_⟩
  by_contra hlegal
  obtain ⟨i, hi⟩ := decode_legalWord hlegal
  cases he.symm.trans hi

/-- R50's "246": the 256 words less the ten of R51. -/
theorem rejectedWords_length :
    ((List.range 256).filter fun n => (decode (BitVec.ofNat 8 n)).toOption.isNone).length = 246 := by
  decide +kernel

/-! ### The state after an illegal word -/

theorem readReg_illegalCommand {r : ResultReg} (hr : r ≠ .status) (s : State) :
    (illegalCommand s).readReg r = none := by
  have hvalid := readReg_isSome_of_invalid r (illegalCommand_results (s := s))
  simpa [hr] using hvalid

/-! ### The obligation -/

/-- Settles O3: `OP < 5` with `RSV = 0` selects a command, every other word is rejected, and the write of a rejected
word ends in `illegalCommand`. -/
theorem exactlyTheIllegalWordsAreRejected : Obligations.ExactlyTheIllegalWordsAreRejected :=
  ⟨illegalWord_iff_decode_error, rejectedWords_length, fun _ s hc =>
    ⟨illegalCommand s, portWriteCmd_illegalWord hc s, illegalCommand_status _,
      fun _ hr => readReg_illegalCommand hr s⟩⟩

end Sys2Proof.Machine
end

section
/-! PROOFS. The ENCODE family (40_encode.md R55, R56): the whole state after a command that has its operand. -/

namespace Sys2Proof.Machine

/-! ### The whole next state -/

/-- `exec_written` with the next state written out: only `STATUS` and the results differ (R52). -/
theorem exec_written_record {i : Instr} {s : State} {d : Word64} (h : s.dataIn = some d) :
    exec i s = .next { s with status := 1#2, results := commandOp i s.instNo d Results.invalid } :=
  exec_written h

/-- ENCODE makes `WIDTH` and `LAYOUT` valid and no other register (R19). -/
theorem encodeOp_invalid (p : Precision) (k : Nat) (d : Word64) :
    encodeOp p k d Results.invalid =
      { Results.invalid with width := some (widthCode p), layout := some (encodedLayout p k d) } := rfl

/-! ### The obligations -/

/-- Settles O8: ENCODE at double precision encodes an operand as itself. -/
theorem encodeDCopiesTheValue : Obligations.EncodeDCopiesTheValue := by
  refine ⟨rfl, fun s => ⟨fun hnone => exec_unwritten hnone, fun d hd => ?_⟩⟩
  have hop : commandOp .encodeD s.instNo d Results.invalid =
      { Results.invalid with width := some 1#1, layout := some d } := encodeOp_invalid .double s.instNo d
  rw [exec_written_record hd, hop]

/-- Settles O9: ENCODE at single precision encodes an operand as its narrowing on the same instance. -/
theorem encodeSNarrowsTheValue : Obligations.EncodeSNarrowsTheValue := by
  refine ⟨rfl, fun s => ⟨fun hnone => exec_unwritten hnone, fun d hd => ?_⟩⟩
  have hop : commandOp .encodeS s.instNo d Results.invalid =
      { Results.invalid with width := some 0#1, layout := some ((narrow32 s.instNo d).setWidth 64) } :=
    encodeOp_invalid .single s.instNo d
  rw [exec_written_record hd, hop]

end Sys2Proof.Machine
end

section
/-! PROOFS. The DECOMPOSE family (41_decompose.md): the registers that describe a layout (R68 to R73), the whole state
after DECOMPOSE (R74, R75), its repetition (R77) and the signed `ACTEXP` (R70). -/

namespace Sys2Proof.Machine

open Sys2Proof.Claims

/-! ### The operand layout, the raw exponent and the class -/

/-- The single operand layout of R49, as the concatenation that `LAYOUT` holds (R18). -/
theorem layoutOperand_single_append (d : Word64) : layoutOperand .single d = 0#32 ++ d.extractLsb' 0 32 :=
  BitVec.setWidth_eq_append (by decide)

theorem rawExpMax_eq (p : Precision) : p.rawExpMax = 2 * p.bias + 1 := by cases p <;> rfl

/-- `classify` with the codes of its class is the table of R69, R72 and R73. -/
theorem isClassOf_classify (p : Precision) (e : BitVec 11) (m : BitVec 52) :
    IsClassOf p.rawExpMax e.toNat m.toNat (classCode (classify p e m)) (implicitCode (classify p e m))
      (specialFlag (classify p e m)) := by
  have hmant : m.toNat = 0 ↔ m = 0 := (BitVec.toNat_eq (y := 0#52)).symm
  unfold classify
  split
  · next hzero =>
    split
    · next hm => exact .inl ⟨hzero, hmant.mpr hm, rfl, rfl, rfl⟩
    · next hm => exact .inr (.inl ⟨hzero, hmant.not.mpr hm, rfl, rfl, rfl⟩)
  · next hzero =>
    split
    · next hmax =>
      split
      · next hm => exact .inr (.inr (.inr (.inl ⟨hmax, hmant.mpr hm, rfl, rfl, rfl⟩)))
      · next hm => exact .inr (.inr (.inr (.inr ⟨hmax, hmant.not.mpr hm, rfl, rfl, rfl⟩)))
    · next hmax => exact .inr (.inr (.inl ⟨hzero, hmax, rfl, rfl, rfl⟩))

section Class
variable {emax e f : Nat} {cls : BitVec 3} {implicit : BitVec 2} {special : BitVec 1}

/-- The codes of `Zero` and `Denormalized` stand for raw exponent 0 (R69). -/
theorem isClassOf_rawexp_zero (h : IsClassOf emax e f cls implicit special) (hcls : cls = 0#3 ∨ cls = 1#3) :
    e = 0 := by
  obtain ⟨he, -⟩ | ⟨he, -⟩ | ⟨-, -, rfl, -⟩ | ⟨-, -, rfl, -⟩ | ⟨-, -, rfl, -⟩ := h
  · exact he
  · exact he
  all_goals exact absurd hcls (by decide)

/-- The codes of `Infinity` and `NaN` stand for the all-ones raw exponent (R69). -/
theorem isClassOf_rawexp_max (h : IsClassOf emax e f cls implicit special) (hcls : cls = 3#3 ∨ cls = 4#3) :
    e = emax := by
  obtain ⟨-, -, rfl, -⟩ | ⟨-, -, rfl, -⟩ | ⟨-, -, rfl, -⟩ | ⟨he, -⟩ | ⟨he, -⟩ := h
  iterate 3 exact absurd hcls (by decide)
  · exact he
  · exact he

end Class

theorem isClassOf_classOf (p : Precision) (l : Word64) :
    IsClassOf p.rawExpMax (rawExpField p l).toNat (mantField p l).toNat (classCode (classOf p l))
      (implicitCode (classOf p l)) (specialFlag (classOf p l)) :=
  isClassOf_classify p (rawExpField p l) (mantField p l)

/-- The eight registers `SIGN` to `SPECIAL` as `writeFields` leaves them are the fields of the layout (R68 to R73). -/
theorem isFieldsOf_writeFields (p : Precision) (l : Word64) (r : Results) :
    IsFieldsOf p.expWidth p.mantWidth p.bias l (r.writeFields p l) := by
  have hsign : signField p l = l.extractLsb' (p.expWidth + p.mantWidth) 1 := by cases p <;> rfl
  have hraw : rawExpField p l = BitVec.ofNat 11 (l.extractLsb' p.mantWidth p.expWidth).toNat :=
    (BitVec.ofNat_toNat _ _).symm
  have hmant : mantField p l = BitVec.ofNat 52 (l.extractLsb' 0 p.mantWidth).toNat := (BitVec.ofNat_toNat _ _).symm
  have hclass := isClassOf_classOf p l
  rw [rawExpField_toNat, mantField_toNat] at hclass
  refine ⟨congrArg some hsign, congrArg some hraw, rfl, ?_, congrArg some hmant, _, _, _, rfl, rfl, rfl, hclass⟩
  rw [writeFields_actexp, actualExp, rawExpField_toNat]

/-! ### `ACTEXP` as a signed number -/

/-- No raw exponent of 11 bits leaves the range of 12-bit two's complement, so `ACTEXP` is exact (R70). -/
theorem actualExp_toInt (p : Precision) (e : BitVec 11) :
    (actualExp p e).toInt = (e.toNat : Int) - (p.bias : Int) := by
  have he : e.toNat < 2048 := e.isLt
  have hbias : p.bias ≤ 1023 := by cases p <;> decide
  exact BitVec.toInt_ofInt_eq_self (by decide) (by omega) (by omega)

theorem biasCode_toNat (p : Precision) : (biasCode p).toNat = p.bias := by cases p <;> rfl

section ActualExp
variable (p : Precision) (l : Word64)

theorem neg_bias_le_actualExp : -(p.bias : Int) ≤ (actualExp p (rawExpField p l)).toInt := by
  rw [actualExp_toInt]
  omega

theorem actualExp_le_bias_succ : (actualExp p (rawExpField p l)).toInt ≤ (p.bias : Int) + 1 := by
  have hle := rawExpField_le p l
  rw [rawExpMax_eq] at hle
  rw [actualExp_toInt]
  omega

variable {p l}

theorem actualExp_of_zero_or_denormalized (h : classCode (classOf p l) = 0#3 ∨ classCode (classOf p l) = 1#3) :
    (actualExp p (rawExpField p l)).toInt = -(p.bias : Int) := by
  rw [actualExp_toInt, isClassOf_rawexp_zero (isClassOf_classOf p l) h]
  omega

theorem actualExp_of_infinity_or_nan (h : classCode (classOf p l) = 3#3 ∨ classCode (classOf p l) = 4#3) :
    (actualExp p (rawExpField p l)).toInt = (p.bias : Int) + 1 := by
  rw [actualExp_toInt, isClassOf_rawexp_max (isClassOf_classOf p l) h, rawExpMax_eq]
  omega

end ActualExp

/-- DECOMPOSE and CONVERT write `RAWEXP`, `BIAS`, `ACTEXP` and `CLASS` of one layout, at the precision of `WIDTH`. -/
theorem exec_exponent_registers {i : Instr} {s t : State}
    (hi : i ∈ [Instr.decomposeS, .decomposeD, .convertS, .convertD]) (h : exec i s = .next t) :
    ∃ p l, t.results.width = some (widthCode p) ∧ t.results.rawexp = some (rawExpField p l) ∧
      t.results.bias = some (biasCode p) ∧ t.results.actexp = some (actualExp p (rawExpField p l)) ∧
      t.results.cls = some (classCode (classOf p l)) := by
  obtain ⟨d, -, rfl⟩ := exec_next h
  simp only [List.mem_cons, List.not_mem_nil, or_false] at hi
  obtain rfl | rfl | rfl | rfl := hi
  · exact ⟨.single, layoutOperand .single d, rfl, rfl, rfl, rfl, rfl⟩
  · exact ⟨.double, layoutOperand .double d, rfl, rfl, rfl, rfl, rfl⟩
  · exact ⟨.single, encodedLayout .single s.instNo (valueOperand d), rfl, rfl, rfl, rfl, rfl⟩
  · exact ⟨.double, encodedLayout .double s.instNo (valueOperand d), rfl, rfl, rfl, rfl, rfl⟩

/-! ### Running a command again -/

/-- A command gives its own next state again: it keeps `DATA_IN` and the instance, and overwrites the rest (R77). -/
theorem exec_next_again {i : Instr} {s t : State} (h : exec i s = .next t) : exec i t = .next t := by
  obtain ⟨d, hd, rfl⟩ := exec_next h
  exact exec_written hd

/-- What DECOMPOSE writes uses no parameter of the instance. -/
theorem commandOp_decompose_instNo {i : Instr} (hi : i = .decomposeS ∨ i = .decomposeD) (j k : Nat) :
    commandOp i j = commandOp i k := by
  obtain rfl | rfl := hi <;> rfl

/-! ### The obligations -/

/-- Settles O22: `commandOp` of DECOMPOSE sees the operand alone, and a command repeats on its own next state. -/
theorem decomposeIsIdempotent : Obligations.DecomposeIsIdempotent := by
  intro i s u s' hi hdata h
  obtain ⟨d, hd, hs'⟩ := exec_next h
  refine ⟨_, exec_written (hdata.symm.trans hd), ?_, ?_, exec_next_again h⟩
  · rw [hs', complete_results, complete_results, commandOp_decompose_instNo hi u.instNo s.instNo]
  · rw [hs', complete_status, complete_status]

/-- Settles O25: `ACTEXP` is exact, and the class fixes the raw exponent at the two ends of its range. -/
theorem actualExponentIsRawMinusBias : Obligations.ActualExponentIsRawMinusBias := by
  intro i s t hi h
  obtain ⟨p, l, hwidth, hraw, hbias, hact, hcls⟩ := exec_exponent_registers hi h
  refine ⟨_, _, _, _, _, hraw, hbias, hact, hwidth, hcls, ?_, fun hw => ?_, fun hw => ?_⟩
  · rw [actualExp_toInt, biasCode_toNat]
  · cases p with
    | single =>
      exact ⟨rfl, rawExpField_le .single l, neg_bias_le_actualExp .single l, actualExp_le_bias_succ .single l,
        actualExp_of_zero_or_denormalized, actualExp_of_infinity_or_nan⟩
    | double => exact absurd hw (by decide)
  · cases p with
    | single => exact absurd hw (by decide)
    | double =>
      exact ⟨rfl, neg_bias_le_actualExp .double l, actualExp_le_bias_succ .double l,
        actualExp_of_zero_or_denormalized, actualExp_of_infinity_or_nan⟩

/-- Settles O10: `decomposeOp` writes the layout operand, then its fields, over invalid registers. -/
theorem decomposeSWritesTheFields : Obligations.DecomposeSWritesTheFields := by
  refine ⟨rfl, fun s => ⟨fun hnone => exec_unwritten hnone, fun d hd => ?_⟩⟩
  rw [← layoutOperand_single_append]
  exact ⟨_, exec_written_record hd, rfl, rfl, isFieldsOf_writeFields .single _ _, rfl, rfl, rfl⟩

/-- Settles O11: as for single precision, where the layout operand is the operand itself. -/
theorem decomposeDWritesTheFields : Obligations.DecomposeDWritesTheFields :=
  ⟨rfl, fun _ => ⟨fun hnone => exec_unwritten hnone, fun d hd =>
    ⟨_, exec_written_record hd, rfl, rfl, isFieldsOf_writeFields .double d _, rfl, rfl, rfl⟩⟩⟩

end Sys2Proof.Machine
end

section
/-! PROOFS. The RENDER family (42_render.md): the characters of the hex string (R79, R80) and of the grouped binary
string (R79, R83) of a layout, and the whole state after RENDER_HEX (R81, R82) and RENDER_BIN (R84, R85). -/

namespace Sys2Proof.Machine

open Sys2Proof.Claims

/-! ### The characters of R79 -/

theorem hexDigit_eq_asciiHex (v : BitVec 4) : hexDigit v = asciiHex v.toNat := rfl

theorem bitChar_eq_asciiBit (b : Bool) : bitChar b = asciiBit b := rfl

/-! ### The hex string -/

/-- The nibble that starts at bit `j` of byte `k`, as bits of the layout (R34). -/
theorem extractLsb'_layoutByte (p : Precision) (l : Word64) (k : Nat) {j : Nat} (hj : j ≤ 4) :
    (layoutByte p l k).extractLsb' j 4 = l.extractLsb' (p.width - 8 - 8 * k + j) 4 := by
  ext i hi
  simp [layoutByte, Nat.add_assoc, show j + i < 8 by omega]

/-- A list made of two items for each index is one list over twice as many indexes. -/
theorem flatMap_range_pair {α : Type} (f : Nat → α) (n : Nat) :
    (List.range n).flatMap (fun k => [f (2 * k), f (2 * k + 1)]) = (List.range (2 * n)).map f := by
  induction n with
  | zero => rfl
  | succ n ih => simp [Nat.mul_succ, List.range_succ, ih]

/-- The two digits of each byte in turn are the digits of the nibbles, most significant first (R80). -/
theorem hexChars_eq_map (p : Precision) (l : Word64) :
    hexChars p l =
      (List.range (p.width / 4)).map fun i => asciiHex (l.extractLsb' (p.width - 4 - 4 * i) 4).toNat := by
  have hbytes : p.width / 4 = 2 * p.bufferBytes := by cases p <;> rfl
  rw [hbytes, ← flatMap_range_pair]
  refine List.flatMap_congr fun k hk => ?_
  have hwidth : 8 * k + 8 ≤ p.width := by
    have := List.mem_range.mp hk
    unfold Precision.bufferBytes at this
    omega
  rw [extractLsb'_layoutByte p l k le_rfl, extractLsb'_layoutByte p l k (Nat.zero_le 4),
    show p.width - 8 - 8 * k + 4 = p.width - 4 - 4 * (2 * k) by omega,
    show p.width - 8 - 8 * k + 0 = p.width - 4 - 4 * (2 * k + 1) by omega,
    hexDigit_eq_asciiHex, hexDigit_eq_asciiHex]

/-- `hexOf` gives the digits of R80, then 0x00. -/
theorem isHexOf_hexOf (p : Precision) (l : Word64) : IsHexOf p.width l (hexOf p l) := by
  refine ⟨by cases p <;> rfl, fun i => ?_⟩
  have hget : (hexOf p l).bytes[i] = (hexChars p l).getD i.val 0 := fillString_getElem 16 (hexChars p l) i.val i.isLt
  rw [hget]
  split
  · next hi => simp [hexChars_eq_map, hi]
  · next hi => exact List.getD_eq_default _ _ (by rw [hexChars_length]; omega)

/-! ### The grouped binary string -/

theorem getD_bitChars (l : Word64) (hi : Nat) {n i : Nat} (h : i < n) :
    (bitChars l hi n).getD i 0 = asciiBit (l.getLsbD (hi - 1 - i)) := by
  simp [bitChars, h, bitChar_eq_asciiBit]

theorem getD_append_middle {α : Type} (as bs cs : List α) {i : Nat} (x : α) (hlo : as.length ≤ i)
    (hhi : i < as.length + bs.length) : (as ++ bs ++ cs).getD i x = bs.getD (i - as.length) x := by
  rw [List.getD_append _ _ _ _ (by rwa [List.length_append]), List.getD_append_right _ _ _ _ hlo]

section BinChars
variable (p : Precision) (l : Word64) {i : Nat}

theorem width_eq_fields : p.width = 1 + p.expWidth + p.mantWidth := by cases p <;> rfl

/-- The sign and the first space. -/
theorem length_signSpace : (bitChars l p.width 1 ++ [spaceChar]).length = 2 := rfl

/-- The sign, the first space and the exponent. -/
theorem length_signSpaceExponent :
    (bitChars l p.width 1 ++ [spaceChar] ++ bitChars l (p.width - 1) p.expWidth).length = 2 + p.expWidth := by
  rw [List.length_append, length_signSpace, bitChars_length]

theorem getD_binChars_sign : (binChars p l).getD 0 0 = asciiBit (l.getLsbD (p.expWidth + p.mantWidth)) := by
  have hbit : p.width - 1 - 0 = p.expWidth + p.mantWidth := by
    have := width_eq_fields p
    omega
  rw [← hbit]
  exact getD_bitChars l p.width Nat.zero_lt_one

theorem getD_binChars_first_space : (binChars p l).getD 1 0 = 0x20 := rfl

theorem getD_binChars_exponent (hlo : 2 ≤ i) (hhi : i < 2 + p.expWidth) :
    (binChars p l).getD i 0 = asciiBit (l.getLsbD (p.expWidth + p.mantWidth + 1 - i)) := by
  have hbit : p.width - 1 - 1 - (i - 2) = p.expWidth + p.mantWidth + 1 - i := by
    have := width_eq_fields p
    omega
  unfold binChars
  rw [List.append_assoc _ [spaceChar],
    getD_append_middle _ _ _ _ hlo (by rwa [length_signSpace, bitChars_length]),
    length_signSpace, getD_bitChars _ _ (by omega), hbit]

theorem getD_binChars_second_space : (binChars p l).getD (2 + p.expWidth) 0 = 0x20 := by
  unfold binChars
  rw [← length_signSpaceExponent p l, getD_append_middle _ _ _ _ le_rfl (Nat.lt_succ_self _), Nat.sub_self]
  rfl

theorem getD_binChars_mantissa (hlo : 3 + p.expWidth ≤ i) (hhi : i < 3 + p.expWidth + p.mantWidth) :
    (binChars p l).getD i 0 = asciiBit (l.getLsbD (p.expWidth + p.mantWidth + 2 - i)) := by
  have hlength : (bitChars l p.width 1 ++ [spaceChar] ++ bitChars l (p.width - 1) p.expWidth ++ [spaceChar]).length =
      3 + p.expWidth := by
    rw [List.length_append, length_signSpaceExponent, List.length_singleton]
    omega
  have hbit : p.mantWidth - 1 - (i - (3 + p.expWidth)) = p.expWidth + p.mantWidth + 2 - i := by omega
  unfold binChars
  rw [List.getD_append_right _ _ _ _ (hlength.trans_le hlo), hlength, getD_bitChars _ _ (by omega), hbit]

theorem getD_binChars_unused (h : 3 + p.expWidth + p.mantWidth ≤ i) : (binChars p l).getD i 0 = 0 := by
  refine List.getD_eq_default _ _ ?_
  rw [binChars_length, width_eq_fields]
  omega

end BinChars

/-- `binOf` gives the sign, exponent and mantissa characters of R83 with a space between, then 0x00. -/
theorem isBinOf_binOf (p : Precision) (l : Word64) : IsBinOf p.expWidth p.mantWidth l (binOf p l) := by
  refine ⟨by cases p <;> rfl, fun i => ?_⟩
  have hget : (binOf p l).bytes[i] = (binChars p l).getD i.val 0 := fillString_getElem 66 (binChars p l) i.val i.isLt
  rw [hget]
  split_ifs with hsign hspace hexp hspace' hmant
  · rw [hsign, getD_binChars_sign]
  · rw [hspace, getD_binChars_first_space]
  · exact getD_binChars_exponent p l (by omega) hexp
  · rw [hspace', getD_binChars_second_space]
  · exact getD_binChars_mantissa p l (by omega) hmant
  · exact getD_binChars_unused p l (not_lt.mp hmant)

/-! ### The strings of the operand layout

The operand and its layout agree on the bits that are rendered. -/

theorem getLsbD_layoutOperand (p : Precision) (d : Word64) {i : Nat} (h : i < p.width) :
    (layoutOperand p d).getLsbD i = d.getLsbD i := by
  cases p with
  | single =>
    have hi : i < 32 := h
    simp [layoutOperand, hi, show i < 64 by omega]
  | double => rfl

theorem isHexOf_congr {n : Nat} {l d : Word64} {h : HexReg} (hbits : ∀ i < n, l.getLsbD i = d.getLsbD i)
    (hl : IsHexOf n l h) : IsHexOf n d h := by
  obtain ⟨hlen, hbytes⟩ := hl
  refine ⟨hlen, fun i => (hbytes i).trans (if_ctx_congr Iff.rfl (fun hi => ?_) fun _ => rfl)⟩
  have hnibble : l.extractLsb' (n - 4 - 4 * i.val) 4 = d.extractLsb' (n - 4 - 4 * i.val) 4 := by
    ext j hj
    simp [hbits (n - 4 - 4 * i.val + j) (by omega)]
  rw [hnibble]

theorem isBinOf_congr {we wm : Nat} {l d : Word64} {b : BinReg}
    (hbits : ∀ i < 1 + we + wm, l.getLsbD i = d.getLsbD i) (hl : IsBinOf we wm l b) : IsBinOf we wm d b := by
  obtain ⟨hlen, hbytes⟩ := hl
  refine ⟨hlen, fun i => (hbytes i).trans ?_⟩
  split_ifs
  · rw [hbits _ (by omega)]
  · rfl
  · rw [hbits _ (by omega)]
  · rfl
  · rw [hbits _ (by omega)]
  · rfl

theorem isHexOf_layoutOperand (p : Precision) (d : Word64) : IsHexOf p.width d (hexOf p (layoutOperand p d)) :=
  isHexOf_congr (fun _ => getLsbD_layoutOperand p d) (isHexOf_hexOf p _)

theorem isBinOf_layoutOperand (p : Precision) (d : Word64) :
    IsBinOf p.expWidth p.mantWidth d (binOf p (layoutOperand p d)) :=
  isBinOf_congr (fun _ hi => getLsbD_layoutOperand p d (hi.trans_eq (width_eq_fields p).symm)) (isBinOf_binOf p _)

/-! ### The obligations -/

/-- Settles O12: RENDER_HEX at single precision writes the string of the zero-extended low half of the operand. -/
theorem renderHexSWritesEightDigits : Obligations.RenderHexSWritesEightDigits := by
  refine ⟨rfl, fun s => ⟨fun hnone => exec_unwritten hnone, fun d hd => ⟨_, isHexOf_layoutOperand .single d, ?_⟩⟩⟩
  rw [← layoutOperand_single_append]
  exact exec_written_record hd

/-- Settles O13: as for single precision, where the layout operand is the operand itself. -/
theorem renderHexDWritesSixteenDigits : Obligations.RenderHexDWritesSixteenDigits :=
  ⟨rfl, fun _ => ⟨fun hnone => exec_unwritten hnone, fun d hd =>
    ⟨_, isHexOf_hexOf .double d, exec_written_record hd⟩⟩⟩

/-- Settles O14: RENDER_BIN at single precision writes the string of the zero-extended low half of the operand. -/
theorem renderBinSWritesGroupedBits : Obligations.RenderBinSWritesGroupedBits := by
  refine ⟨rfl, fun s => ⟨fun hnone => exec_unwritten hnone, fun d hd => ⟨_, isBinOf_layoutOperand .single d, ?_⟩⟩⟩
  rw [← layoutOperand_single_append]
  exact exec_written_record hd

/-- Settles O15: as for single precision, where the layout operand is the operand itself. -/
theorem renderBinDWritesGroupedBits : Obligations.RenderBinDWritesGroupedBits :=
  ⟨rfl, fun _ => ⟨fun hnone => exec_unwritten hnone, fun d hd =>
    ⟨_, isBinOf_binOf .double d, exec_written_record hd⟩⟩⟩

end Sys2Proof.Machine
end

section
/-! PROOFS. The CONVERT family (43_convert.md): what `absVal` keeps of the operand (R88), every register that
`convertOp` writes (R87), and the whole state after CONVERT (R89, R90). -/

namespace Sys2Proof.Machine

open Sys2Proof.Claims

/-! ### The absolute value of the operand -/

section AbsVal
variable (v : Word64)

/-- `absVal` as the mask that clears bit 63. -/
theorem absVal_eq_and_mask : absVal v = v &&& 0x7FFFFFFFFFFFFFFF#64 := by
  apply BitVec.eq_of_toNat_eq
  have hpad : absVal v = (v.extractLsb' 0 63).setWidth 64 := (BitVec.setWidth_eq_append (by decide)).symm
  have hmask : v.toNat &&& 0x7FFFFFFFFFFFFFFF = v.toNat % 2 ^ 63 := Nat.and_two_pow_sub_one_eq_mod v.toNat 63
  simp [hpad, hmask]
  omega

theorem extractLsb'_absVal_sign : (absVal v).extractLsb' 63 1 = 0#1 := BitVec.extractLsb'_append_eq_left

/-- A field that ends below the sign bit is the operand's. -/
theorem extractLsb'_absVal {start len : Nat} (h : start + len ≤ 63) :
    (absVal v).extractLsb' start len = v.extractLsb' start len := by
  rw [absVal, BitVec.extractLsb'_append_eq_of_add_le h, BitVec.extractLsb'_extractLsb'_of_le h]

/-- A NaN is known by its exponent and mantissa, which `absVal` keeps. -/
theorem isNan64_absVal : IsNan64 (absVal v) ↔ IsNan64 v := by
  unfold IsNan64
  rw [extractLsb'_absVal v (by decide), extractLsb'_absVal v (by decide)]

end AbsVal

/-! ### Every result register of CONVERT -/

/-- `convertOp` leaves every result register as R87 says, over the encoded layout and, for `ABS`, over the operand. -/
theorem isConversionOf_convertOp (p : Precision) (k : Nat) (d : Word64) (r : Results) :
    IsConversionOf (widthCode p) p.expWidth p.mantWidth p.bias (encodedLayout p k d) d (convertOp p k d r) := by
  have hfields : IsFieldsOf p.expWidth p.mantWidth p.bias (encodedLayout p k d) (convertOp p k d r) :=
    isFieldsOf_writeFields p (encodedLayout p k d) (r.writeLayout p (encodedLayout p k d))
  have habs : (convertOp p k d r).abs = some (d &&& 0x7FFFFFFFFFFFFFFF#64) := congrArg some (absVal_eq_and_mask d)
  have hhex : IsHexOf (1 + p.expWidth + p.mantWidth) (encodedLayout p k d) (hexOf p (encodedLayout p k d)) := by
    rw [← width_eq_fields]
    exact isHexOf_hexOf p _
  exact ⟨rfl, rfl, hfields, habs, ⟨_, rfl, hhex⟩, ⟨_, rfl, isBinOf_binOf p _⟩⟩

/-- `ABS` is taken from the operand and not from the layout, at both precisions (R88). -/
theorem commandOp_convert_abs {i : Instr} (hi : i = .convertS ∨ i = .convertD) (k : Nat) (d : Word64) (r : Results) :
    (commandOp i k d r).abs = some (absVal d) := by
  obtain rfl | rfl := hi <;> rfl

/-! ### The obligations -/

/-- Settles O16: CONVERT at single precision is `convertOp` over the narrowing on the same instance. -/
theorem convertSWritesEveryRegister : Obligations.ConvertSWritesEveryRegister :=
  ⟨rfl, fun s => ⟨fun hnone => exec_unwritten hnone, fun d hd =>
    ⟨_, exec_written_record hd, isConversionOf_convertOp .single s.instNo d Results.invalid⟩⟩⟩

/-- Settles O17: as for single precision, where the encoded layout is the operand itself. -/
theorem convertDWritesEveryRegister : Obligations.ConvertDWritesEveryRegister :=
  ⟨rfl, fun s => ⟨fun hnone => exec_unwritten hnone, fun d hd =>
    ⟨_, exec_written_record hd, isConversionOf_convertOp .double s.instNo d Results.invalid⟩⟩⟩

/-- Settles O27: `ABS` is `absVal` of the operand, which changes no bit but the sign. -/
theorem absIsTheOperandWithItsSignCleared : Obligations.AbsIsTheOperandWithItsSignCleared := by
  intro i s d hi hd
  have habs := commandOp_convert_abs hi s.instNo d Results.invalid
  exact ⟨_, absVal d, exec_written hd, habs, rfl, fun hnan =>
    ⟨(isNan64_absVal d).mpr hnan, extractLsb'_absVal_sign d, extractLsb'_absVal d (by decide)⟩⟩

end Sys2Proof.Machine
end

section
/-! PROOFS. The exceptions family (60_exceptions.md): the illegal command (R93), the two model faults and their record
(R94, R95), the order of the checks (R98) and the completion on every operand (R97). -/

namespace Sys2Proof.Machine

open Sys2Proof.Claims

/-! ### The word of a decoded command -/

theorem joinFields_splitWord (c : CmdWord) : joinFields (splitWord c) = c := by
  have hhigh : c.extractLsb' 4 4 ++ c.extractLsb' 3 1 = c.extractLsb' 3 5 :=
    BitVec.extractLsb'_append_extractLsb'_eq_extractLsb' rfl
  have hall : c.extractLsb' 3 5 ++ c.extractLsb' 0 3 = c.extractLsb' 0 8 :=
    BitVec.extractLsb'_append_extractLsb'_eq_extractLsb' rfl
  calc joinFields (splitWord c) = c.extractLsb' 4 4 ++ c.extractLsb' 3 1 ++ c.extractLsb' 0 3 := rfl
    _ = c := by rw [hhigh, hall, BitVec.extractLsb'_eq_self]

/-- The tables of R47 and R48 read backwards. -/
theorem fields_of_instrOfOp {op : BitVec 3} {b : BitVec 1} {i : Instr}
    (h : instrOfOp op (precisionOfBit b) = .ok i) : i.fields = { rsv := 0, prec := b, op := op } := by
  have hop : op.toNat < 5 := by
    by_contra hres
    cases (instrOfOp_reserved _ (not_lt.mp hres)).symm.trans h
  obtain rfl | rfl | rfl | rfl | rfl : op = 0#3 ∨ op = 1#3 ∨ op = 2#3 ∨ op = 3#3 ∨ op = 4#3 := by bv_omega
  all_goals
    obtain rfl | rfl : b = 0#1 ∨ b = 1#1 := by bv_omega
    all_goals cases h; rfl

/-- A command has one word (R51). -/
theorem encode_of_decode {c : CmdWord} {i : Instr} (h : decode c = .ok i) : encode i = c := by
  by_cases hrsv : (splitWord c).rsv = 0
  · have hfields : i.fields = splitWord c := by
      rw [fields_of_instrOfOp ((if_pos hrsv).symm.trans h), ← hrsv]
    rw [encode, hfields, joinFields_splitWord]
  · cases (if_neg hrsv).symm.trans h

/-! ### The port accesses as steps and their ends -/

section Accesses
variable {s : State} {rest : List Event}

theorem step_writeCmd {c : CmdWord} (hf : s.faults = []) (hp : s.pending = .host (.writeCmd c) :: rest) :
    step s = portWriteCmd c (s.withPending rest) :=
  step_event hf hp

theorem step_read {r : ResultReg} (hf : s.faults = []) (hp : s.pending = .host (.read r) :: rest) :
    step s = portRead r (s.withPending rest) :=
  step_event hf hp

theorem portRead_valid {r : ResultReg} {v : PortValue} (h : s.readReg r = some v) :
    portRead r s = .next (s.logRead { reg := r, value := v }) := by
  simp [portRead, h]

theorem portWriteCmd_legalWord_unwritten {c : CmdWord} (hc : ¬ IllegalWord c) (h : s.dataIn = none) :
    portWriteCmd c s = .fault (.unwrittenOperand c) := by
  obtain ⟨i, hi⟩ := decode_legalWord hc
  rw [portWriteCmd_accepted hi, exec_unwritten h, encode_of_decode hi]

end Accesses

/-- What an event that answers a next state does to `DATA_IN` (R28, R31). -/
theorem perform_dataIn {e : Event} {s t : State} (h : perform e s = .next t) :
    t.dataIn = s.dataIn ∨ (∃ v, e = .host (.writeData v) ∧ t.dataIn = some v) ∨ e = .reset := by
  obtain ⟨v, he, rfl⟩ | ⟨c, err, -, -, rfl⟩ | ⟨c, i, d, -, -, -, rfl⟩ | ⟨r, v, -, -, rfl⟩ | ⟨he, -⟩ := perform_next h
  · exact .inr (.inl ⟨v, he, rfl⟩)
  · exact .inl rfl
  · exact .inl rfl
  · exact .inl rfl
  · exact .inr (.inr he)

theorem step_dataIn_lost {s t : State} (h : step s = .next t) (hs : s.dataIn ≠ none) (ht : t.dataIn = none) :
    s.pending.head? = some .reset := by
  obtain ⟨-, ⟨-, rfl⟩ | ⟨e, es, hp, he⟩⟩ := step_next h
  · exact absurd ht hs
  · obtain hkept | ⟨v, -, hv⟩ | rfl := perform_dataIn he
    · exact absurd (hkept.symm.trans ht) hs
    · cases hv.symm.trans ht
    · rw [hp, List.head?_cons]

/-! ### The fault record -/

section Record
variable {s : State} {f : Fault}

theorem advance_of_fault (hf : s.faults = []) (h : step s = .fault f) :
    advance s = (s.withPending s.pending.tail).recordFault f := by
  simp [advance, h, hf]

theorem advance_faults_of_fault (hf : s.faults = []) (h : step s = .fault f) : (advance s).faults = [f] := by
  rw [advance_of_fault hf h, recordFault_faults, withPending_faults, hf, List.nil_append]

theorem advance_received_of_fault (hf : s.faults = []) (h : step s = .fault f) :
    (advance s).received = s.received := by
  rw [advance_of_fault hf h, recordFault_received, withPending_received]

theorem advance_stopped {fs : List Fault} (h : s.faults = f :: fs) : advance s = s := by
  simp [advance, step_stopped h, h]

theorem runRecorded_stopped {fs : List Fault} (h : s.faults = f :: fs) (n : Nat) : runRecorded n s = s := by
  induction n with
  | zero => rfl
  | succ n ih => rw [runRecorded, advance_stopped h, ih]

theorem not_final_of_faults {fs : List Fault} (h : s.faults = f :: fs) : ¬ s.Final := by
  rintro ⟨-, hnone⟩
  cases h.symm.trans hnone

end Record

/-! ### The obligations -/

/-- Settles O46: the recorded fault stops the model in a state that is not final, and only a reset clears `DATA_IN`. -/
theorem commandWithoutOperandFaultsForGood : Obligations.CommandWithoutOperandFaultsForGood := by
  refine ⟨fun s i rest hf hp hd => ?_, fun s t => step_dataIn_lost⟩
  have hstep : step s = .fault (.unwrittenOperand (encode i)) :=
    (step_writeCmd hf hp).trans (portWriteCmd_encode_unwritten i hd)
  have hrecord := advance_faults_of_fault hf hstep
  refine ⟨hstep, hrecord, fun n => ?_⟩
  rw [runRecorded_stopped hrecord n]
  exact not_final_of_faults hrecord

/-- Settles O45: a recorded fault lengthens the fault record alone; the valid registers are `readReg_isSome_commandOp`
after a command and `STATUS` alone at reset and after an illegal command. -/
theorem readOfAnInvalidRegisterFaults : Obligations.ReadOfAnInvalidRegisterFaults := by
  refine ⟨fun s r rest hf hp hr => ?_, fun r => readReg_reset, fun i s t r h hcol => ?_, fun c s t r hc h hr => ?_⟩
  · have hstep : step s = .fault (.readInvalid r) :=
      (step_read hf hp).trans (portRead_invalid ((readReg_withPending s rest r).trans hr))
    exact ⟨hstep, advance_faults_of_fault hf hstep, advance_received_of_fault hf hstep⟩
  · obtain ⟨d, -, rfl⟩ := exec_next h
    have hvalid := (readReg_isSome_commandOp i s.instNo d s r).trans hcol
    exact Option.isNone_iff_eq_none.mp (Option.isSome_eq_false_iff.mp hvalid)
  · obtain rfl := Host.Outcome.next.inj ((portWriteCmd_illegalWord hc s).symm.trans h)
    exact readReg_illegalCommand hr s

/-- Settles O18: no operation of a command can stop, and `STATUS <- DONE` follows it. -/
theorem numericEventsAreNotErrors : Obligations.NumericEventsAreNotErrors := fun _ s _ hd =>
  ⟨_, exec_written hd, complete_status s _⟩

/-- Settles O5: `illegalCommand` keeps `DATA_IN`, so that every command still has its operand. -/
theorem illegalCommandIsReportedAndNotSticky : Obligations.IllegalCommandIsReportedAndNotSticky := by
  intro s c rest hf hp hc
  refine ⟨(step_writeCmd hf hp).trans (portWriteCmd_illegalWord hc _), fun i d hd => ?_⟩
  rw [portWriteCmd_encode]
  exact numericEventsAreNotErrors i _ d hd

/-- Settles O6: a word is rejected in every state, and the operand is asked for after it is accepted. -/
theorem legalityIsCheckedBeforeTheOperand : Obligations.LegalityIsCheckedBeforeTheOperand := by
  refine ⟨fun s c hd => ⟨fun hc => ?_, fun hc => portWriteCmd_legalWord_unwritten hc hd⟩, fun s r => ?_⟩
  · exact ⟨_, portWriteCmd_illegalWord hc s, illegalCommand_status s⟩
  · cases hr : s.readReg r with
    | none => exact .inr (portRead_invalid hr)
    | some v => exact .inl ⟨_, portRead_valid hr⟩

end Sys2Proof.Machine
end

section
/-! PROOFS. The reset family (70_reset_and_hazards.md): a reset event as a step (R109) and what it keeps (R110). -/

namespace Sys2Proof.Machine

theorem step_reset {s : State} {rest : List Event} (hf : s.faults = []) (hp : s.pending = .reset :: rest) :
    step s = .next (s.withPending rest).resetBlock :=
  step_event hf hp

/-- After a reset the host reads what it reads from the reset state of R31. -/
theorem readReg_resetBlock (s : State) (r : ResultReg) : s.resetBlock.readReg r = State.reset.readReg r :=
  readReg_congr (s := State.reset) rfl rfl r

/-- Settles O52: the step is `resetBlock`, whose registers read as those of `State.reset` and which keeps `instNo`,
the only parameter of `narrow32`. -/
theorem resetPutsTheBlockIntoItsResetState : Obligations.ResetPutsTheBlockIntoItsResetState := by
  intro s rest hf hp
  refine ⟨_, step_reset hf hp, resetBlock_dataIn _, resetBlock_status _, fun r hr => ?_, fun d => ?_⟩
  · exact (readReg_resetBlock _ r).trans (readReg_reset hr)
  · rw [resetBlock_instNo, withPending_instNo]

end Sys2Proof.Machine
end

section
/-! PROOFS. What the host's events can do (10_state.md R27 to R29, 60_exceptions.md R92): the ends of a step that is no
next state, the port accesses as steps, and what no event changes. -/

namespace Sys2Proof.Machine

open Sys2Proof.Claims

/-! ### Faults and refusals of an event -/

theorem exec_not_refused {i : Instr} {s : State} {r : Refusal} : exec i s ≠ .refused r := by
  rw [exec_eq_runCommand]
  exact runCommand_not_refused

/-- The two model faults of R92, each from its own event (R94, R95). -/
theorem perform_fault {e : Event} {s : State} {f : Fault} (h : perform e s = .fault f) :
    (∃ c, e = .host (.writeCmd c) ∧ s.dataIn = none ∧ f = .unwrittenOperand c) ∨
    (∃ r, e = .host (.read r) ∧ s.readReg r = none ∧ f = .readInvalid r) := by
  match e with
  | .reset => cases h
  | .host (.writeData v) => cases h
  | .host .readCmd => cases h
  | .host (.read r) =>
    have hread : portRead r s = .fault f := h
    cases hr : s.readReg r with
    | none => exact .inr ⟨r, rfl, hr, (Host.Outcome.fault.inj ((portRead_invalid hr).symm.trans hread)).symm⟩
    | some v => cases (portRead_valid hr).symm.trans hread
  | .host (.writeCmd c) =>
    have hwrite : portWriteCmd c s = .fault f := h
    cases hc : decode c with
    | error err => cases (portWriteCmd_rejected hc).symm.trans hwrite
    | ok i =>
      rw [portWriteCmd_accepted hc] at hwrite
      cases hd : s.dataIn with
      | none =>
        obtain rfl := Host.Outcome.fault.inj ((exec_unwritten hd).symm.trans hwrite)
        exact .inl ⟨c, rfl, rfl, congrArg _ (encode_of_decode hc)⟩
      | some d => cases (exec_written hd).symm.trans hwrite

/-- The one refused event is the read of `CMD` (R24). -/
theorem perform_refused {e : Event} {s : State} {r : Refusal} (h : perform e s = .refused r) :
    e = .host .readCmd ∧ r = .readOfCmd := by
  match e with
  | .reset => cases h
  | .host (.writeData v) => cases h
  | .host .readCmd => exact ⟨rfl, (Host.Outcome.refused.inj h).symm⟩
  | .host (.read q) =>
    have hread : portRead q s = .refused r := h
    cases hq : s.readReg q with
    | none => cases (portRead_invalid hq).symm.trans hread
    | some v => cases (portRead_valid hq).symm.trans hread
  | .host (.writeCmd c) =>
    have hwrite : portWriteCmd c s = .refused r := h
    cases hc : decode c with
    | error err => cases (portWriteCmd_rejected hc).symm.trans hwrite
    | ok i => exact absurd ((portWriteCmd_accepted hc).symm.trans hwrite) exec_not_refused

theorem step_idle {s : State} (hf : s.faults = []) (hp : s.pending = []) : step s = .next s := by
  simp [step, takeEvent, hf, hp]

/-- A step that stops a model without a recorded fault stops in its oldest event. -/
theorem step_fault {s : State} {f : Fault} (hf : s.faults = []) (h : step s = .fault f) :
    ∃ e es, s.pending = e :: es ∧ perform e (s.withPending es) = .fault f := by
  cases hp : s.pending with
  | nil => cases (step_idle hf hp).symm.trans h
  | cons e es => exact ⟨e, es, rfl, (step_event hf hp).symm.trans h⟩

theorem step_refused {s : State} {r : Refusal} (h : step s = .refused r) :
    s.faults = [] ∧ ∃ e es, s.pending = e :: es ∧ perform e (s.withPending es) = .refused r := by
  cases hf : s.faults with
  | cons f fs => cases (step_stopped hf).symm.trans h
  | nil =>
    cases hp : s.pending with
    | nil => cases (step_idle hf hp).symm.trans h
    | cons e es => exact ⟨rfl, e, es, rfl, (step_event hf hp).symm.trans h⟩

/-! ### The recorded step -/

theorem advance_of_next {s t : State} (h : step s = .next t) : advance s = t := by
  simp [advance, h]

theorem advance_of_refused {s : State} {r : Refusal} (h : step s = .refused r) : advance s = s := by
  simp [advance, h]

/-- A property that every recorded step keeps holds along every recorded run. -/
theorem runRecorded_induction {P : State → Prop} (hstep : ∀ s, P s → P (advance s)) (n : Nat) {s : State} (h : P s) :
    P (runRecorded n s) := by
  induction n generalizing s with
  | zero => exact h
  | succ n ih => exact ih (hstep s h)

/-- A recorded step lengthens the fault record or leaves it (R101). -/
theorem faults_prefix_advance (s : State) : s.faults <+: (advance s).faults := by
  cases hf : s.faults with
  | cons f fs => rw [advance_stopped hf, hf]
  | nil => exact List.nil_prefix

/-- The results do not enter what a `CMD` write does, as the command starts by invalidating them (R20, R52). -/
theorem portWriteCmd_forgets (c : CmdWord) (s : State) (st : BitVec 2) (r : Results) :
    portWriteCmd c { s with status := st, results := r } = portWriteCmd c s := by
  cases hc : decode c with
  | error e =>
    rw [portWriteCmd_rejected hc, portWriteCmd_rejected hc]
    rfl
  | ok i =>
    rw [portWriteCmd_accepted hc, portWriteCmd_accepted hc, exec_eq_runCommand, exec_eq_runCommand]
    rfl

/-- `IsReadOf` is `readReg`, register by register (R29, R38). -/
theorem readReg_eq_some_iff (s : State) (r : ResultReg) (v : PortValue) : s.readReg r = some v ↔ IsReadOf s r v := by
  cases r with
  | status => exact Option.some_inj.trans eq_comm
  | hex | hexLen | bin | binLen =>
    simp only [State.readReg, IsReadOf, Option.map_eq_some_iff]
    exact ⟨fun ⟨⟨bytes, len⟩, hx, hv⟩ => ⟨bytes, len, hx, hv.symm⟩, fun ⟨bytes, len, hx, hv⟩ => ⟨_, hx, hv.symm⟩⟩
  | _ =>
    simp only [State.readReg, IsReadOf, Option.map_eq_some_iff]
    exact exists_congr fun x => and_congr_right fun _ => eq_comm

/-- A step that reads a valid register appends what it read to what the host has received (R29). -/
theorem step_read_valid {s : State} {r : ResultReg} {rest : List Event} {v : PortValue} (hf : s.faults = [])
    (hp : s.pending = .host (.read r) :: rest) (hr : s.readReg r = some v) :
    step s = .next ((s.withPending rest).logRead ⟨r, v⟩) :=
  (step_read hf hp).trans (portRead_valid ((readReg_withPending s rest r).trans hr))

/-! ### The obligations -/

/-- Settles O1: `decode` computes on the ten words. -/
theorem legalWordsOfTheTableDecode : Obligations.LegalWordsOfTheTableDecode :=
  ⟨rfl, rfl, rfl, rfl, rfl, rfl, rfl, rfl, rfl, rfl⟩

/-- Settles O2: a command has one word, and that word decodes to it. -/
theorem decodeInvertsEncode : Obligations.DecodeInvertsEncode := fun _ i =>
  ⟨fun h => (encode_of_decode h).symm, fun h => h ▸ decode_encode i⟩

/-- Settles O4: the oldest event is taken, and the word it writes is accepted. -/
theorem stepRunsDecodedCommand : Obligations.StepRunsDecodedCommand := fun _ _ _ _ hf hp hc _ =>
  (step_writeCmd hf hp).trans (portWriteCmd_accepted hc)

/-- Settles O7: the first step stores the operand, the second runs the command's word. -/
theorem pseudoInstructionIsDataThenCommand : Obligations.PseudoInstructionIsDataThenCommand := by
  refine fun i v => ⟨rfl, fun s rest hf hp => ?_⟩
  have hfirst : step s = .next ((s.withPending (.host (.writeCmd (encode i)) :: rest)).withDataIn v) :=
    step_event hf hp
  have hsecond := step_writeCmd (s := (s.withPending (.host (.writeCmd (encode i)) :: rest)).withDataIn v) hf rfl
  exact ⟨_, hfirst, hsecond.trans (portWriteCmd_encode i _)⟩

/-- Settles O19: a command ends in `State.complete`, which writes `STATUS` and the results. -/
theorem commandsChangeOnlyStatusAndResults : Obligations.CommandsChangeOnlyStatusAndResults := by
  intro i s t h
  obtain ⟨d, -, rfl⟩ := exec_next h
  exact ⟨rfl, rfl, rfl, rfl, rfl⟩

/-- Settles O23: the recorded fault or the `CMD` write decides the step, and neither sees `STATUS` or the results. -/
theorem commandsForgetOldResults : Obligations.CommandsForgetOldResults := by
  intro s c rest st r hp
  by_cases hf : s.faults = []
  · rw [step_writeCmd hf hp, step_writeCmd (s := { s with status := st, results := r }) hf hp]
    exact portWriteCmd_forgets c (s.withPending rest) st r
  · obtain ⟨f, fs, hf⟩ := List.exists_cons_of_ne_nil hf
    rw [step_stopped hf, step_stopped (s := { s with status := st, results := r }) hf]

/-- Settles O43: each access is its own event of `perform`. -/
theorem portAccessesHaveOnlyTheirEffects : Obligations.PortAccessesHaveOnlyTheirEffects := by
  refine fun s rest hf => ⟨fun v hp => step_event hf hp, fun r t hp h => ?_, fun i d hp hd => ?_⟩
  · rw [step_read hf hp] at h
    obtain ⟨v, -, rfl⟩ := portRead_next h
    exact ⟨rfl, List.length_append⟩
  · have hexec := exec_written (i := i) (s := s.withPending rest) hd
    exact ⟨_, ((step_writeCmd hf hp).trans (portWriteCmd_encode i _)).trans hexec, hexec⟩

/-- Settles O44: a read is `readReg`, which the first read of two leaves as it was. -/
theorem readsReturnTheRegister : Obligations.ReadsReturnTheRegister := by
  refine ⟨readReg_eq_some_iff, fun s r rest v hf hp hv => ⟨rfl, ?_⟩⟩
  have hr := (readReg_eq_some_iff s r v).mpr hv
  have hr' : ((s.withPending (.host (.read r) :: rest)).logRead ⟨r, v⟩).readReg r = some v := by
    rw [readReg_logRead, readReg_withPending, hr]
  refine ⟨_, _, step_read_valid hf hp hr, step_read_valid hf rfl hr', ?_⟩
  simp [State.logRead, State.withPending]

/-- Settles O47: of the events only a `DATA_IN` write and a reset touch `DATA_IN`. -/
theorem operandPersists : Obligations.OperandPersists := by
  intro s t h hreset hwrite
  obtain ⟨-, ⟨-, rfl⟩ | ⟨e, es, hp, he⟩⟩ := step_next h
  · rfl
  · rw [hp, List.head?_cons] at hreset hwrite
    obtain hkept | ⟨v, rfl, -⟩ | rfl := perform_dataIn he
    · exact hkept
    · exact absurd rfl (hwrite v)
    · exact absurd rfl hreset

/-- Settles O48: a `CMD` write splits by the word's legality and by `DATA_IN`, a read by the register's valid bit. -/
theorem hostActionsEndInTheListedOutcomes : Obligations.HostActionsEndInTheListedOutcomes := by
  intro a s ha
  match a with
  | .readCmd => exact absurd rfl ha
  | .writeData v => exact .inl ⟨v, rfl, rfl⟩
  | .read r =>
    cases hr : s.readReg r with
    | some v => exact .inr (.inl ⟨r, v, rfl, hr, portRead_valid hr⟩)
    | none => exact .inr (.inr (.inr (.inr (.inr ⟨r, rfl, hr, portRead_invalid hr⟩))))
  | .writeCmd c =>
    by_cases hc : IllegalWord c
    · exact .inr (.inr (.inr (.inl ⟨c, rfl, hc, portWriteCmd_illegalWord hc s⟩)))
    obtain ⟨i, hi⟩ := decode_legalWord hc
    obtain rfl := encode_of_decode hi
    cases hd : s.dataIn with
    | none => exact .inr (.inr (.inr (.inr (.inl ⟨i, rfl, rfl, portWriteCmd_encode_unwritten i hd⟩))))
    | some d =>
      exact .inr (.inr (.inl ⟨i, d, _, rfl, rfl, (portWriteCmd_encode i s).trans (exec_written hd), rfl,
        readReg_isSome_commandOp i s.instNo d s⟩))

/-- Settles O49: commands and reads are never refused, and a stopped model faults. -/
theorem onlyAReadOfCmdIsRefused : Obligations.OnlyAReadOfCmdIsRefused := by
  refine fun s r => ⟨fun h => ?_, fun ⟨hf, hp, hr⟩ => ?_⟩
  · obtain ⟨hf, e, es, hp, he⟩ := step_refused h
    obtain ⟨rfl, rfl⟩ := perform_refused he
    exact ⟨hf, by rw [hp, List.head?_cons], rfl⟩
  · obtain ⟨es, hes⟩ := List.head?_eq_some_iff.mp hp
    rw [hr]
    exact step_event hf hes

/-- Settles O50: a recorded step can only lengthen the record, and an illegal command leaves what it leaves in `STATUS`
and the results alone. -/
theorem faultsAreNeverCleared : Obligations.FaultsAreNeverCleared := by
  refine ⟨fun n s => ?_, fun s f fs hf => ⟨step_stopped hf, advance_stopped hf⟩, fun s t c c' hc h => ?_⟩
  · exact runRecorded_induction (P := fun t => s.faults <+: t.faults)
      (fun t ht => ht.trans (faults_prefix_advance t)) n (List.prefix_refl _)
  · obtain rfl := Host.Outcome.next.inj ((portWriteCmd_illegalWord hc s).symm.trans h)
    exact portWriteCmd_forgets c' s statusIllegalCmd Results.invalid

/-- Settles O53: nothing is pending and nothing is recorded. -/
theorem idleBlockStaysAsItIs : Obligations.IdleBlockStaysAsItIs := fun _ hf hp => step_idle hf hp

/-- Settles O59: the platform is `resetInstance` over a range of `extraInstances + 1` places. -/
theorem platformResetsEveryInstance : Obligations.PlatformResetsEveryInstance := by
  refine ⟨?_, fun k s h => ?_⟩
  · rw [Platform.reset, List.length_map, List.length_range]
    exact Nat.succ_pos _
  · rw [Platform.reset, List.getElem?_map, Option.map_eq_some_iff] at h
    obtain ⟨j, hj, rfl⟩ := h
    obtain ⟨hlt, rfl⟩ := List.getElem?_eq_some_iff.mp hj
    rw [List.getElem_range]
    rfl

end Sys2Proof.Machine
end

section
/-! PROOFS. The invariant of the machine: every write to `STATUS` or the results gives a state that has it, and every
other event keeps it (10_state.md section 2, 60_exceptions.md section 1). -/

namespace Sys2Proof.Machine

/-! ### What a command writes describes one layout -/

section Describe
variable (p : Precision) (k : Nat) (d : Word64)

theorem resultsDescribe_encodeOp :
    ResultsDescribe k p (encodedLayout p k d) (encodeOp p k d Results.invalid) :=
  ⟨rfl, rfl, encodedLayout_lt p k d, .inl rfl, .inl rfl, .inl rfl, fun _ ha => by cases ha⟩

theorem resultsDescribe_decomposeOp :
    ResultsDescribe k p (layoutOperand p d) (decomposeOp p d Results.invalid) :=
  ⟨rfl, rfl, layoutOperand_lt p d, .inr rfl, .inl rfl, .inl rfl, fun _ ha => by cases ha⟩

theorem resultsDescribe_renderHexOp :
    ResultsDescribe k p (layoutOperand p d) (renderHexOp p d Results.invalid) :=
  ⟨rfl, rfl, layoutOperand_lt p d, .inl rfl, .inr rfl, .inl rfl, fun _ ha => by cases ha⟩

theorem resultsDescribe_renderBinOp :
    ResultsDescribe k p (layoutOperand p d) (renderBinOp p d Results.invalid) :=
  ⟨rfl, rfl, layoutOperand_lt p d, .inl rfl, .inl rfl, .inr rfl, fun _ ha => by cases ha⟩

/-- CONVERT alone writes `ABS`, of the operand whose layout it writes (R87, R88). -/
theorem resultsDescribe_convertOp :
    ResultsDescribe k p (encodedLayout p k d) (convertOp p k d Results.invalid) := by
  refine ⟨rfl, rfl, encodedLayout_lt p k d, .inr rfl, .inr rfl, .inr rfl, fun a ha => ?_⟩
  exact ⟨⟨d, (Option.some_inj.mp ha).symm, rfl⟩, Option.some_ne_none _, Option.some_ne_none _, Option.some_ne_none _⟩

end Describe

theorem resultsDescribe_commandOp (i : Instr) (k : Nat) (d : Word64) :
    ∃ p l, ResultsDescribe k p l (commandOp i k d Results.invalid) := by
  cases i with
  | convertS => exact ⟨_, _, resultsDescribe_convertOp .single k d⟩
  | convertD => exact ⟨_, _, resultsDescribe_convertOp .double k d⟩
  | encodeS => exact ⟨_, _, resultsDescribe_encodeOp .single k d⟩
  | encodeD => exact ⟨_, _, resultsDescribe_encodeOp .double k d⟩
  | decomposeS => exact ⟨_, _, resultsDescribe_decomposeOp .single k d⟩
  | decomposeD => exact ⟨_, _, resultsDescribe_decomposeOp .double k d⟩
  | renderHexS => exact ⟨_, _, resultsDescribe_renderHexOp .single k d⟩
  | renderHexD => exact ⟨_, _, resultsDescribe_renderHexOp .double k d⟩
  | renderBinS => exact ⟨_, _, resultsDescribe_renderBinOp .single k d⟩
  | renderBinD => exact ⟨_, _, resultsDescribe_renderBinOp .double k d⟩

/-! ### What gives the invariant -/

theorem inv_of_blank {s : State} (hstatus : s.status = statusNone ∨ s.status = statusIllegalCmd)
    (hresults : s.results = Results.invalid) : Inv s := by
  have hnot : s.status ≠ statusDone := by
    obtain h | h := hstatus <;> rw [h] <;> decide
  exact ⟨hstatus.elim .inl fun h => .inr (.inr h), fun h => absurd h hnot, fun h => absurd h hnot, fun _ => hresults⟩

theorem inv_complete (i : Instr) {s : State} {d : Word64} (hd : s.dataIn = some d) :
    Inv (s.complete (commandOp i s.instNo d Results.invalid)) where
  status_legal := .inr (.inl rfl)
  done_operand _ := by
    rw [complete_dataIn, hd]
    exact Option.some_ne_none d
  done_results _ := resultsDescribe_commandOp i s.instNo d
  blank h := absurd rfl h

/-- The invariant speaks of `STATUS`, the results, the parameter and whether there is an operand. -/
theorem Inv.congr {s t : State} (h : Inv s) (hstatus : t.status = s.status) (hresults : t.results = s.results)
    (hinst : t.instNo = s.instNo) (hdata : s.dataIn ≠ none → t.dataIn ≠ none) : Inv t where
  status_legal := hstatus ▸ h.status_legal
  done_operand hdone := hdata (h.done_operand (hstatus ▸ hdone))
  done_results hdone := by
    rw [hinst, hresults]
    exact h.done_results (hstatus ▸ hdone)
  blank hnot := hresults.trans (h.blank (hstatus ▸ hnot))

/-! ### What keeps the invariant -/

theorem Inv.withPending {s : State} (h : Inv s) (es : List Event) : Inv (s.withPending es) :=
  h.congr rfl rfl rfl id

theorem perform_keeps_inv {e : Event} {s t : State} (hs : Inv s) (h : perform e s = .next t) : Inv t := by
  obtain ⟨v, -, rfl⟩ | ⟨c, err, -, -, rfl⟩ | ⟨c, i, d, -, -, hd, rfl⟩ | ⟨r, v, -, -, rfl⟩ | ⟨-, rfl⟩ := perform_next h
  · exact hs.congr rfl rfl rfl fun _ => Option.some_ne_none v
  · exact inv_of_blank (.inr rfl) rfl
  · exact inv_complete i hd
  · exact hs.congr rfl rfl rfl id
  · exact inv_of_blank (.inl rfl) rfl

theorem step_keeps_inv {s t : State} (hs : Inv s) (h : step s = .next t) : Inv t := by
  obtain ⟨-, ⟨-, rfl⟩ | ⟨e, es, -, he⟩⟩ := step_next h
  · exact hs
  · exact perform_keeps_inv (hs.withPending es) he

/-- A recorded `UnwrittenOperand` invalidates the results and leaves `STATUS`, which is not `DONE` while no
operand has been written. -/
theorem recordFault_unwritten_keeps_inv {s : State} (hs : Inv s) (hd : s.dataIn = none) (c : CmdWord) :
    Inv (s.recordFault (.unwrittenOperand c)) := by
  have hblank := hs.blank fun hdone => hs.done_operand hdone hd
  exact hs.congr rfl hblank.symm rfl id

theorem recordFault_read_keeps_inv {s : State} (hs : Inv s) (r : ResultReg) : Inv (s.recordFault (.readInvalid r)) :=
  hs.congr rfl rfl rfl id

theorem recordFault_keeps_inv {e : Event} {s : State} {f : Fault} (hs : Inv s) (h : perform e s = .fault f) :
    Inv (s.recordFault f) := by
  obtain ⟨c, -, hd, rfl⟩ | ⟨r, -, -, rfl⟩ := perform_fault h
  · exact recordFault_unwritten_keeps_inv hs hd c
  · exact recordFault_read_keeps_inv hs r

theorem advance_keeps_inv {s : State} (hs : Inv s) : Inv (advance s) := by
  by_cases hf : s.faults = []
  · cases hstep : step s with
    | next t => exact advance_of_next hstep ▸ step_keeps_inv hs hstep
    | refused r => rwa [advance_of_refused hstep]
    | fault f =>
      obtain ⟨e, es, hp, he⟩ := step_fault hf hstep
      rw [advance_of_fault hf hstep, hp, List.tail_cons]
      exact recordFault_keeps_inv (hs.withPending es) he
  · obtain ⟨f, fs, hf⟩ := List.exists_cons_of_ne_nil hf
    rwa [advance_stopped hf]

/-! ### What the invariant says of the registers -/

/-- With the invariant the results are all invalid or describe one layout. -/
theorem Inv.results {s : State} (h : Inv s) :
    s.results = Results.invalid ∨ ∃ p l, ResultsDescribe s.instNo p l s.results :=
  (em (s.status = statusDone)).symm.imp h.blank h.done_results

theorem fieldsDescribe_valid {p : Precision} {l : Word64} {r : Results} (h : FieldsDescribe p l r) :
    (∀ e, r.rawexp = some e → e = rawExpField p l) ∧ (∀ m, r.mant = some m → m = mantField p l) ∧
    (∀ c, r.cls = some c → c = classCode (classOf p l)) ∧
    (∀ c, r.implicit = some c → c = implicitCode (classOf p l)) := by
  obtain h | h := h <;> rw [h]
  · simp
  · exact ⟨fun _ he => (Option.some_inj.mp he).symm, fun _ hm => (Option.some_inj.mp hm).symm,
      fun _ hc => (Option.some_inj.mp hc).symm, fun _ hc => (Option.some_inj.mp hc).symm⟩

theorem classCode_le (c : Classification) : (classCode c).toNat ≤ 4 := by cases c <;> decide

theorem implicitCode_ne_three (c : Classification) : implicitCode c ≠ 3#2 := by cases c <;> decide

/-- Widening leaves the new bits zero. -/
theorem extractLsb'_setWidth_above {v w : Nat} (x : BitVec w) (n : Nat) : (x.setWidth v).extractLsb' w n = 0#n := by
  ext i hi
  simp

/-- A single layout is held zero-extended (R18). -/
theorem extractLsb'_high_of_lt {l : Word64} (h : l.toNat < 2 ^ 32) : l.extractLsb' 32 32 = 0#32 := by
  apply BitVec.eq_of_toNat_eq
  rw [BitVec.extractLsb'_toNat, Nat.shiftRight_eq_div_pow, Nat.div_eq_of_lt h]
  rfl

/-! ### The obligations -/

/-- Settles O54: `step_next` and `perform_next` list what a step can do, and each of it keeps the invariant. -/
theorem stepKeepsTheInvariant : Obligations.StepKeepsTheInvariant := fun _ _ => step_keeps_inv

/-- Settles O55: nothing is valid after a reset. -/
theorem resetHasTheInvariant : Obligations.ResetHasTheInvariant :=
  ⟨inv_of_blank (.inl rfl) rfl, fun _ => inv_of_blank (.inl rfl) rfl⟩

/-- Settles O56: a recorded step keeps the invariant also where it ends in a fault or a refusal. -/
theorem recordedRunsKeepTheInvariant : Obligations.RecordedRunsKeepTheInvariant := fun n _ =>
  runRecorded_induction (P := Inv) (fun _ => advance_keeps_inv) n

/-- Settles O57: what is valid is computed from one layout that fits its width. -/
theorem reservedCodesAreNeverProduced : Obligations.ReservedCodesAreNeverProduced := by
  intro s hs
  have hstatus : s.status ≠ 3#2 := by
    obtain h | h | h := hs.status_legal <;> rw [h] <;> decide
  obtain hblank | ⟨p, l, hwidth, hlayout, hlt, hfields, hhex, hbin, -⟩ := hs.results
  · simp [hblank, hstatus]
  · obtain ⟨hraw, hmant, hcls, himp⟩ := fieldsDescribe_valid hfields
    have hhexLen : ∀ h, s.results.hex = some h → h = hexOf p l := fun h hh => by
      simpa [hh] using hhex
    have hbinLen : ∀ b, s.results.bin = some b → b = binOf p l := fun b hb => by
      simpa [hb] using hbin
    refine ⟨hstatus, fun c hc => hcls c hc ▸ classCode_le _, fun c hc => himp c hc ▸ implicitCode_ne_three _, ?_⟩
    rw [hwidth, hlayout]
    cases p with
    | single =>
      refine ⟨fun _ => ⟨fun l' hl => ?_, fun e he => ?_, fun m hm => ?_, fun h hh => ?_, fun b hb => ?_⟩,
        fun hw => absurd hw (by decide)⟩
      · exact Option.some_inj.mp hl ▸ extractLsb'_high_of_lt hlt
      · exact hraw e he ▸ extractLsb'_setWidth_above _ 3
      · exact hmant m hm ▸ extractLsb'_setWidth_above _ 29
      · exact (congrArg HexReg.len (hhexLen h hh)).trans (hexOf_len .single l)
      · exact (congrArg BinReg.len (hbinLen b hb)).trans (binOf_len .single l)
    | double =>
      refine ⟨fun hw => absurd hw (by decide), fun _ => ⟨fun h hh => ?_, fun b hb => ?_⟩⟩
      · exact (congrArg HexReg.len (hhexLen h hh)).trans (hexOf_len .double l)
      · exact (congrArg BinReg.len (hbinLen b hb)).trans (binOf_len .double l)

end Sys2Proof.Machine
end

section
/-! PROOFS. Laws that relate the registers of one layout: the fields reassemble (41_decompose.md section 3), CONVERT is
the composition of the others (43_convert.md section 2), and the strings determine the layout (42_render.md). -/

namespace Sys2Proof.Machine

open Sys2Proof.Claims

/-! ### The three fields of a layout -/

theorem extractLsb'_setWidth_self {v w : Nat} (x : BitVec w) (h : w ≤ v) : (x.setWidth v).extractLsb' 0 w = x := by
  ext i hi
  simp [hi, hi.trans_le h]

/-- Three adjacent fields joined are the bits they are taken from. -/
theorem append_extractLsb'_fields {w : Nat} (l : BitVec w) (wm we : Nat) :
    l.extractLsb' (we + wm) 1 ++ l.extractLsb' wm we ++ l.extractLsb' 0 wm = l.extractLsb' 0 (1 + we + wm) := by
  rw [BitVec.extractLsb'_append_extractLsb'_eq_extractLsb' (by omega),
    BitVec.extractLsb'_append_extractLsb'_eq_extractLsb' (by omega)]

theorem fields_append_single (l : Word64) :
    signField .single l ++ (rawExpField .single l).extractLsb' 0 8 ++ (mantField .single l).extractLsb' 0 23 =
      l.extractLsb' 0 32 := by
  rw [rawExpField, mantField, Precision.expWidth, Precision.mantWidth, extractLsb'_setWidth_self _ (by decide),
    extractLsb'_setWidth_self _ (by decide)]
  exact append_extractLsb'_fields l 23 8

theorem fields_append_double (l : Word64) :
    signField .double l ++ rawExpField .double l ++ mantField .double l = l := by
  rw [rawExpField, mantField, Precision.expWidth, Precision.mantWidth, BitVec.setWidth_eq, BitVec.setWidth_eq]
  exact (append_extractLsb'_fields l 52 11).trans BitVec.extractLsb'_eq_self

/-- DECOMPOSE and CONVERT write the fields of the layout they write. -/
theorem exec_field_registers {i : Instr} {p : Precision} {s t : State}
    (hi : (i, p) ∈ [(Instr.decomposeS, Precision.single), (.convertS, .single), (.decomposeD, .double),
      (.convertD, .double)]) (h : exec i s = .next t) :
    ∃ l, t.results.sign = some (signField p l) ∧ t.results.rawexp = some (rawExpField p l) ∧
      t.results.mant = some (mantField p l) ∧ t.results.layout = some l ∧ l.toNat < 2 ^ p.width := by
  obtain ⟨d, -, rfl⟩ := exec_next h
  simp only [List.mem_cons, List.not_mem_nil, or_false, Prod.mk.injEq] at hi
  obtain ⟨rfl, rfl⟩ | ⟨rfl, rfl⟩ | ⟨rfl, rfl⟩ | ⟨rfl, rfl⟩ := hi
  · exact ⟨_, rfl, rfl, rfl, rfl, layoutOperand_lt .single d⟩
  · exact ⟨_, rfl, rfl, rfl, rfl, encodedLayout_lt .single s.instNo d⟩
  · exact ⟨_, rfl, rfl, rfl, rfl, layoutOperand_lt .double d⟩
  · exact ⟨_, rfl, rfl, rfl, rfl, encodedLayout_lt .double s.instNo d⟩

/-! ### A layout as the next operand -/

/-- A layout within its width, fed back as `DATA_IN`, is its own operand layout (R49). -/
theorem layoutOperand_of_lt {p : Precision} {l : Word64} (h : l.toNat < 2 ^ p.width) : layoutOperand p l = l := by
  cases p with
  | single =>
    apply BitVec.eq_of_toNat_eq
    have hlt : l.toNat < 2 ^ 32 := h
    simp only [layoutOperand, BitVec.toNat_setWidth, BitVec.extractLsb'_toNat, Nat.shiftRight_zero]
    omega
  | double => rfl

/-- R87 line by line: CONVERT writes what the three others write of the encoded layout, and `ABS`. -/
theorem convertOp_eq_composition (p : Precision) (k : Nat) (d : Word64) :
    convertOp p k d Results.invalid =
      { decomposeOp p (encodedLayout p k d) Results.invalid with
        abs := (convertOp p k d Results.invalid).abs
        hex := (renderHexOp p (encodedLayout p k d) Results.invalid).hex
        bin := (renderBinOp p (encodedLayout p k d) Results.invalid).bin } := by
  rw [decomposeOp, renderHexOp, renderBinOp, layoutOperand_of_lt (encodedLayout_lt p k d)]
  rfl

/-! ### What the strings determine -/

theorem asciiHex_injective {v w : Nat} (hv : v < 16) (hw : w < 16) (h : asciiHex v = asciiHex w) : v = w := by
  unfold asciiHex at h
  have := congrArg BitVec.toNat h
  simp only [BitVec.toNat_ofNat] at this
  split_ifs at this <;> omega

theorem asciiBit_injective {a b : Bool} (h : asciiBit a = asciiBit b) : a = b := by
  revert a b
  decide

/-- Two layouts of one hex string agree on the `n` bits it shows. -/
theorem isHexOf_determines {n : Nat} {l m : Word64} {h : HexReg} (hn : n = 32 ∨ n = 64) (hl : IsHexOf n l h)
    (hm : IsHexOf n m h) {b : Nat} (hb : b < n) : l.getLsbD b = m.getLsbD b := by
  have hi : (n - 1 - b) / 4 < 16 := by omega
  have hdigit : (n - 1 - b) / 4 < n / 4 := by omega
  obtain ⟨-, hlbytes⟩ := hl
  obtain ⟨-, hmbytes⟩ := hm
  have hbyte := (hlbytes ⟨_, hi⟩).symm.trans (hmbytes ⟨_, hi⟩)
  rw [if_pos hdigit, if_pos hdigit] at hbyte
  have hnibble := BitVec.eq_of_toNat_eq (asciiHex_injective (BitVec.isLt _) (BitVec.isLt _) hbyte)
  have hbit := congrArg (·.getLsbD (b % 4)) hnibble
  have hplace : n - 4 - 4 * ((n - 1 - b) / 4) + b % 4 = b := by omega
  simpa [hplace, Nat.mod_lt] using hbit

/-- Two layouts of one grouped binary string agree on the bits it shows. -/
theorem isBinOf_determines {we wm : Nat} {l m : Word64} {r : BinReg} (hn : 3 + we + wm ≤ 66) (hl : IsBinOf we wm l r)
    (hm : IsBinOf we wm m r) {b : Nat} (hb : b < 1 + we + wm) : l.getLsbD b = m.getLsbD b := by
  obtain ⟨-, hlbytes⟩ := hl
  obtain ⟨-, hmbytes⟩ := hm
  have hbyte (i : Nat) (hi : i < 66) := (hlbytes ⟨i, hi⟩).symm.trans (hmbytes ⟨i, hi⟩)
  apply asciiBit_injective
  obtain hmant | hexp | rfl : b < wm ∨ (wm ≤ b ∧ b < we + wm) ∨ b = we + wm := by omega
  · have h := hbyte (we + wm + 2 - b) (by omega)
    simpa [show we + wm + 2 - b ≠ 0 by omega, show we + wm + 2 - b ≠ 1 by omega,
      show ¬ we + wm + 2 - b < 2 + we by omega, show we + wm + 2 - b ≠ 2 + we by omega,
      show we + wm + 2 - b < 3 + we + wm by omega, show we + wm + 2 - (we + wm + 2 - b) = b by omega] using h
  · have h := hbyte (we + wm + 1 - b) (by omega)
    simpa [show we + wm + 1 - b ≠ 0 by omega, show we + wm + 1 - b ≠ 1 by omega,
      show we + wm + 1 - b < 2 + we by omega, show we + wm + 1 - (we + wm + 1 - b) = b by omega] using h
  · exact hbyte 0 (by omega)

theorem asciiBit_ne_space (b : Bool) : asciiBit b ≠ 0x20#8 := by cases b <;> decide

/-- The spaces of R83: no other character of the string, and no byte after it, is 0x20. -/
theorem isBinOf_space_iff {we wm : Nat} {l : Word64} {r : BinReg} (h : IsBinOf we wm l r) (i : Fin 66) :
    r.bytes[i] = 0x20#8 ↔ i.val = 1 ∨ i.val = 2 + we := by
  obtain ⟨-, hbytes⟩ := h
  rw [hbytes i]
  split_ifs with hsign hspace hexp hspace' hmant
  · exact iff_of_false (asciiBit_ne_space _) (by omega)
  · exact iff_of_true rfl (.inl hspace)
  · exact iff_of_false (asciiBit_ne_space _) (by omega)
  · exact iff_of_true rfl (.inr hspace')
  · exact iff_of_false (asciiBit_ne_space _) (by omega)
  · exact iff_of_false (by decide) (by omega)

theorem layoutOperand_bits_of_hexOf {p : Precision} {d e : Word64}
    (h : hexOf p (layoutOperand p d) = hexOf p (layoutOperand p e)) : ∀ b < p.width, d.getLsbD b = e.getLsbD b := by
  have he := isHexOf_layoutOperand p e
  rw [← h] at he
  exact fun b => isHexOf_determines (by cases p <;> decide) (isHexOf_layoutOperand p d) he

theorem layoutOperand_bits_of_binOf {p : Precision} {d e : Word64}
    (h : binOf p (layoutOperand p d) = binOf p (layoutOperand p e)) : ∀ b < p.width, d.getLsbD b = e.getLsbD b := by
  have he := isBinOf_layoutOperand p e
  rw [← h] at he
  rw [width_eq_fields]
  exact fun b => isBinOf_determines (by cases p <;> decide) (isBinOf_layoutOperand p d) he

theorem low_eq_of_getLsbD {d e : Word64} (h : ∀ b < 32, d.getLsbD b = e.getLsbD b) :
    d.extractLsb' 0 32 = e.extractLsb' 0 32 := by
  ext b hb
  simpa using h b hb

/-! ### The obligations -/

/-- Settles O24: the fields are adjacent parts of the layout, and a single one has no bits above its width. -/
theorem fieldsReassembleToTheLayout : Obligations.FieldsReassembleToTheLayout := by
  refine ⟨fun i s t hi h => ?_, fun i s t hi h => ?_⟩
  · obtain ⟨l, hsign, hraw, hmant, hlayout, hlt⟩ :=
      exec_field_registers (p := .single) (by obtain rfl | rfl := hi <;> decide) h
    exact ⟨_, _, _, _, hsign, hraw, hmant, hlayout, fields_append_single l, extractLsb'_high_of_lt hlt,
      extractLsb'_setWidth_above _ 3, extractLsb'_setWidth_above _ 29⟩
  · obtain ⟨l, hsign, hraw, hmant, hlayout, -⟩ :=
      exec_field_registers (p := .double) (by obtain rfl | rfl := hi <;> decide) h
    exact ⟨_, _, _, hsign, hraw, hmant, by rw [fields_append_double, hlayout]⟩

/-- Settles O26: the encoded layout fits its width, so that the other commands take it as their operand layout. -/
theorem convertIsTheCompositionOfTheOthers : Obligations.ConvertIsTheCompositionOfTheOthers := by
  intro enc dec hx bn cv hmem s d hd
  simp only [List.mem_cons, List.not_mem_nil, or_false, Prod.mk.injEq] at hmem
  obtain ⟨rfl, rfl, rfl, rfl, rfl⟩ | ⟨rfl, rfl, rfl, rfl, rfl⟩ := hmem
  · refine ⟨_, _, encodedLayout .single s.instNo d, exec_written hd, exec_written hd, rfl, rfl, rfl, fun u hu => ?_⟩
    exact ⟨_, _, _, exec_written hu, exec_written hu, exec_written hu, convertOp_eq_composition .single s.instNo d⟩
  · refine ⟨_, _, encodedLayout .double s.instNo d, exec_written hd, exec_written hd, rfl, rfl, rfl, fun u hu => ?_⟩
    exact ⟨_, _, _, exec_written hu, exec_written hu, exec_written hu, convertOp_eq_composition .double s.instNo d⟩

/-- Settles O29: each digit shows four bits and each bit character one, and no two of them are the same. -/
theorem renderingsDetermineTheLayout : Obligations.RenderingsDetermineTheLayout := by
  intro s u s' u' d e hd he
  refine ⟨fun hs hu h => ?_, fun hs hu h => ?_, fun hs hu h => ?_, fun hs hu h => ?_⟩
  all_goals
    obtain rfl := Host.Outcome.next.inj ((exec_written hd).symm.trans hs)
    obtain rfl := Host.Outcome.next.inj ((exec_written he).symm.trans hu)
    have hstring := Option.some_inj.mp h
  · exact low_eq_of_getLsbD (layoutOperand_bits_of_hexOf (p := .single) hstring)
  · exact BitVec.eq_of_getLsbD_eq (layoutOperand_bits_of_hexOf (p := .double) hstring)
  · exact low_eq_of_getLsbD (layoutOperand_bits_of_binOf (p := .single) hstring)
  · exact BitVec.eq_of_getLsbD_eq (layoutOperand_bits_of_binOf (p := .double) hstring)

/-- Settles O30: `BIN` is `binOf` of a layout, whose spaces `isBinOf_space_iff` counts. -/
theorem groupedStringHasTwoSpaces : Obligations.GroupedStringHasTwoSpaces := by
  intro i we s t hmem h
  obtain ⟨d, -, rfl⟩ := exec_next h
  simp only [List.mem_cons, List.not_mem_nil, or_false, Prod.mk.injEq] at hmem
  obtain ⟨rfl, rfl⟩ | ⟨rfl, rfl⟩ | ⟨rfl, rfl⟩ | ⟨rfl, rfl⟩ := hmem
  · exact ⟨_, rfl, isBinOf_space_iff (isBinOf_binOf .single _)⟩
  · exact ⟨_, rfl, isBinOf_space_iff (isBinOf_binOf .double _)⟩
  · exact ⟨_, rfl, isBinOf_space_iff (isBinOf_binOf .single _)⟩
  · exact ⟨_, rfl, isBinOf_space_iff (isBinOf_binOf .double _)⟩

end Sys2Proof.Machine
end

section
/-! PROOFS. The narrowing, as its own code says it (40_encode.md R57 to R63): NaNs and signs, the rounding of an integer
at a quantum, and the bits of the packed result. -/

namespace Sys2Proof.Machine

open Sys2Proof.Claims

/-! ### The cases of R57 -/

section Cases
variable {f : Word64 → Word32} {d : Word64}

/-- A NaN in the terms of the narrowing (R16). -/
theorem isNan64_iff (d : Word64) :
    IsNan64 d ↔ (rawExpField .double d).toNat = 0x7FF ∧ (mantField .double d).toNat ≠ 0 := by
  rw [rawExpField_toNat, mantField_toNat, IsNan64, ← BitVec.toNat_inj, ne_eq, ← BitVec.toNat_inj]
  rfl

theorem narrow32With_nan (h : IsNan64 d) : narrow32With f d = f d := by
  obtain ⟨hexp, hmant⟩ := (isNan64_iff d).mp h
  simp [narrow32With, hexp, hmant]

theorem narrow32With_infinity (hexp : (rawExpField .double d).toNat = 0x7FF) (hmant : (mantField .double d).toNat = 0) :
    narrow32With f d = infinity32 (signField .double d) := by
  simp [narrow32With, hexp, hmant]

theorem narrow32With_zero (hexp : (rawExpField .double d).toNat = 0) (hmant : (mantField .double d).toNat = 0) :
    narrow32With f d = pack32 (signField .double d) 0 0 := by
  simp [narrow32With, hexp, hmant]

theorem narrow32With_finite (hexp : (rawExpField .double d).toNat ≠ 0x7FF)
    (hzero : ¬ ((rawExpField .double d).toNat = 0 ∧ (mantField .double d).toNat = 0)) :
    narrow32With f d = narrowFinite (signField .double d)
      (magnitude64 (rawExpField .double d).toNat (mantField .double d).toNat).1
      (magnitude64 (rawExpField .double d).toNat (mantField .double d).toNat).2 := by
  rw [narrow32With, if_neg hexp, if_neg hzero]

end Cases

/-! ### The packed fields -/

theorem pack32_toNat (s : BitVec 1) (e : BitVec 8) (m : BitVec 23) :
    (pack32 s e m).toNat = s.toNat * 2 ^ 31 + e.toNat * 2 ^ 23 + m.toNat := by
  simp only [pack32, BitVec.toNat_append, Nat.shiftLeft_eq]
  have hm := m.isLt
  have he := e.isLt
  rw [Nat.mul_comm _ (2 ^ 8), Nat.mul_comm _ (2 ^ 23), ← Nat.two_pow_add_eq_or_of_lt he,
    ← Nat.two_pow_add_eq_or_of_lt hm]
  omega

theorem pack32_msb (s : BitVec 1) (e : BitVec 8) (m : BitVec 23) : (pack32 s e m).msb = s.msb := by
  calc (pack32 s e m).msb = (s ++ e).msb := BitVec.msb_append
    _ = s.msb := BitVec.msb_append

/-- A pattern is its three fields (R13). -/
theorem pack32_fields (x : Word32) : pack32 (x.extractLsb' 31 1) (x.extractLsb' 23 8) (x.extractLsb' 0 23) = x :=
  (append_extractLsb'_fields x 23 8).trans BitVec.extractLsb'_eq_self

theorem exists_packRounded_eq_pack32 (s : BitVec 1) (m : Nat) (q : Int) : ∃ e f, packRounded s m q = pack32 s e f := by
  unfold packRounded
  split_ifs
  · exact ⟨_, _, rfl⟩
  · exact ⟨_, _, rfl⟩
  · exact ⟨_, _, rfl⟩

/-- Every operand but a NaN narrows to a pattern that packs its own sign (R57, R58). -/
theorem exists_narrow32With_eq_pack32 {f : Word64 → Word32} {d : Word64} (h : ¬ IsNan64 d) :
    ∃ e m, narrow32With f d = pack32 (signField .double d) e m := by
  rw [isNan64_iff, not_and_not_right] at h
  by_cases hexp : (rawExpField .double d).toNat = 0x7FF
  · exact ⟨_, _, narrow32With_infinity hexp (h hexp)⟩
  by_cases hzero : (rawExpField .double d).toNat = 0 ∧ (mantField .double d).toNat = 0
  · obtain ⟨hexp0, hmant0⟩ := hzero
    exact ⟨_, _, narrow32With_zero hexp0 hmant0⟩
  · rw [narrow32With_finite hexp hzero]
    exact exists_packRounded_eq_pack32 _ _ _

theorem signField_double_msb (d : Word64) : (signField .double d).msb = d.msb := by
  simp [signField, Precision.width, BitVec.msb_eq_getLsbD_last]

theorem narrow32With_msb {f : Word64 → Word32} {d : Word64} (h : ¬ IsNan64 d) : (narrow32With f d).msb = d.msb := by
  obtain ⟨e, m, hpack⟩ := exists_narrow32With_eq_pack32 (f := f) h
  rw [hpack, pack32_msb, signField_double_msb]

/-! ### The NaN patterns -/

/-- The mantissa of `packNan` is one of 1 to `2^23 - 1`. -/
theorem isNan32_packNan (sign : Bool) (m : Fin 8388607) : IsNan32 (packNan sign m) := by
  refine ⟨pack32_exp _ _ _, ?_⟩
  rw [packNan, pack32_mant, ne_eq, ← BitVec.toNat_inj, BitVec.toNat_ofNat]
  have := m.isLt
  simp only [BitVec.ofNat_eq_ofNat, BitVec.toNat_ofNat]
  omega

theorem isNan32_narrow32 (k : Nat) {d : Word64} (h : IsNan64 d) : IsNan32 (narrow32 k d) := by
  rw [narrow32, narrow32With_nan h]
  exact isNan32_packNan _ _

theorem exists_packNan_eq {x : Word32} (h : IsNan32 x) : ∃ sign m, packNan sign m = x := by
  obtain ⟨hexp, hmant⟩ := h
  rw [ne_eq, ← BitVec.toNat_inj] at hmant
  have hpos : (x.extractLsb' 0 23).toNat ≠ 0 := hmant
  have hlt := (x.extractLsb' 0 23).isLt
  refine ⟨x.msb, ⟨(x.extractLsb' 0 23).toNat - 1, by omega⟩, ?_⟩
  have hsign : BitVec.ofBool x.msb = x.extractLsb' 31 1 := by
    ext i hi
    obtain rfl : i = 0 := by omega
    simp [BitVec.msb_eq_getLsbD_last]
  rw [packNan, Nat.sub_add_cancel (Nat.one_le_iff_ne_zero.mpr hpos), BitVec.ofNat_toNat, BitVec.setWidth_eq, hsign,
    show (0xFF : BitVec 8) = x.extractLsb' 23 8 from hexp.symm]
  exact pack32_fields x

theorem narrowNanDefault_eq_pack32 (d : Word64) :
    narrowNanDefault d = pack32 (d.extractLsb' 63 1) 0xFF#8 (1#1 ++ d.extractLsb' 29 22) :=
  BitVec.append_assoc

theorem isNan32_narrowNanDefault (d : Word64) : IsNan32 (narrowNanDefault d) := by
  rw [narrowNanDefault_eq_pack32]
  refine ⟨pack32_exp _ _ _, ?_⟩
  rw [pack32_mant]
  intro h
  have htop : (1#1 ++ d.extractLsb' 29 22).extractLsb' 22 1 = 1#1 := BitVec.extractLsb'_append_eq_left
  rw [h] at htop
  exact absurd htop (by decide)

/-! ### Rounding to an integer (R59) -/

/-- `RNE_shift` is within one half of the quotient, and even where it is one half away. -/
theorem rneShift_half (m sh : Nat) (h : 1 ≤ sh) :
    2 * |(m : Int) - (rneShift m sh : Int) * 2 ^ sh| ≤ 2 ^ sh ∧
    (2 * |(m : Int) - (rneShift m sh : Int) * 2 ^ sh| = 2 ^ sh → rneShift m sh % 2 = 0) := by
  obtain ⟨t, rfl⟩ : ∃ t, sh = t + 1 := ⟨sh - 1, by omega⟩
  have hdiv : (m : Int) = 2 ^ (t + 1) * (m / 2 ^ (t + 1) : Nat) + (m % 2 ^ (t + 1) : Nat) := by
    exact_mod_cast (Nat.div_add_mod m (2 ^ (t + 1))).symm
  have hlt : m % 2 ^ (t + 1) < 2 ^ (t + 1) := Nat.mod_lt _ (by positivity)
  have hpow : (2 : Int) ^ (t + 1) = 2 * 2 ^ t := pow_succ' 2 t
  unfold rneShift
  simp only [Nat.add_sub_cancel]
  generalize m / 2 ^ (t + 1) = quo at *
  generalize m % 2 ^ (t + 1) = rem at *
  zify at hlt ⊢
  split
  · next hup =>
    have hdiff : (m : Int) - (quo + 1) * 2 ^ (t + 1) = rem - 2 ^ (t + 1) := by
      rw [hdiv]
      ring
    rw [hdiff, abs_of_nonpos (by omega)]
    omega
  · next hdown =>
    have hdiff : (m : Int) - quo * 2 ^ (t + 1) = rem := by
      rw [hdiv]
      ring
    rw [hdiff, abs_of_nonneg (by omega)]
    omega

/-- No other integer is nearer to the quotient, and where another is as near the result is even. -/
theorem rneShift_nearest (m : Nat) {sh : Nat} (h : 1 ≤ sh) (c : Int) :
    |(m : Int) - (rneShift m sh : Int) * 2 ^ sh| ≤ |(m : Int) - c * 2 ^ sh| ∧
    (|(m : Int) - (rneShift m sh : Int) * 2 ^ sh| = |(m : Int) - c * 2 ^ sh| → c ≠ rneShift m sh →
      rneShift m sh % 2 = 0) := by
  obtain ⟨hhalf, htie⟩ := rneShift_half m sh h
  by_cases hc : c = rneShift m sh
  · exact ⟨hc ▸ le_rfl, fun _ hne => absurd hc hne⟩
  · have hgap : (2 : Int) ^ sh ≤ |(c - rneShift m sh) * 2 ^ sh| := by
      rw [abs_mul, abs_of_pos (by positivity : (0 : Int) < 2 ^ sh)]
      exact le_mul_of_one_le_left (by positivity) (Int.one_le_abs (sub_ne_zero.mpr hc))
    have htriangle := abs_sub ((m : Int) - (rneShift m sh : Int) * 2 ^ sh) ((m : Int) - c * 2 ^ sh)
    rw [show (m : Int) - (rneShift m sh : Int) * 2 ^ sh - ((m : Int) - c * 2 ^ sh) = (c - rneShift m sh) * 2 ^ sh by
      ring] at htriangle
    exact ⟨by linarith, fun heq _ => htie (by linarith)⟩

theorem le_rneShift {m sh a : Nat} (h : a * 2 ^ sh ≤ m) : a ≤ rneShift m sh := by
  have hquo : a ≤ m / 2 ^ sh := (Nat.le_div_iff_mul_le (by positivity)).mpr h
  obtain hr | hr := rneShift_eq_floor_or_succ m sh <;> omega

theorem rneShift_le {m sh a : Nat} (h : m < a * 2 ^ sh) : rneShift m sh ≤ a := by
  have hquo : m / 2 ^ sh < a := Nat.div_lt_of_lt_mul (by rwa [Nat.mul_comm])
  obtain hr | hr := rneShift_eq_floor_or_succ m sh <;> omega

/-! ### The target quantum (R60) -/

section Quantum
variable {m sh : Nat} {x : Int}

theorem targetQuantum_ge (m : Nat) (x : Int) : -149 ≤ targetQuantum m x := le_max_right _ _

/-- At the target quantum the integer has at most 24 bits. -/
theorem lt_of_targetQuantum (hq : targetQuantum m x = x + sh) : m < 2 ^ 24 * 2 ^ sh := by
  have hle : x + bitLength m - 24 ≤ targetQuantum m x := le_max_left _ _
  calc m < 2 ^ bitLength m := lt_two_pow_bitLength m
    _ ≤ 2 ^ (24 + sh) := Nat.pow_le_pow_right (by decide) (by omega)
    _ = 2 ^ 24 * 2 ^ sh := pow_add _ _ _

/-- Above the smallest quantum it has exactly 24. -/
theorem le_of_targetQuantum (hm : m ≠ 0) (hq : targetQuantum m x = x + sh) (hlarge : targetQuantum m x ≠ -149) :
    2 ^ 23 * 2 ^ sh ≤ m := by
  have hbits : targetQuantum m x = x + bitLength m - 24 := (max_choice _ _).resolve_right hlarge
  calc 2 ^ 23 * 2 ^ sh = 2 ^ (bitLength m - 1) := by rw [← pow_add, show 23 + sh = bitLength m - 1 by omega]
    _ ≤ m := two_pow_le_of_bitLength hm

/-- Bounds on the shift for an operand of 53 bits and for a denormal one. -/
theorem targetQuantum_sub_ge {e f : Nat} :
    (e ≠ 0 → 29 ≤ targetQuantum (magnitude64 e f).1 (magnitude64 e f).2 - (magnitude64 e f).2) ∧
    (e = 0 → 925 ≤ targetQuantum (magnitude64 e f).1 (magnitude64 e f).2 - (magnitude64 e f).2) := by
  refine ⟨fun he => ?_, fun he => ?_⟩
  · have hlt : 2 ^ 52 < 2 ^ bitLength (2 ^ 52 + f) := (Nat.le_add_right _ f).trans_lt (lt_two_pow_bitLength _)
    have hbits := (Nat.pow_lt_pow_iff_right (by decide)).mp hlt
    have hle : (e : Int) - 1075 + bitLength (2 ^ 52 + f) - 24 ≤ targetQuantum (2 ^ 52 + f) (e - 1075) := le_max_left _ _
    simp only [magnitude64, if_neg he]
    omega
  · have hge := targetQuantum_ge f (-1074)
    simp only [magnitude64, if_pos he]
    omega

theorem one_le_targetQuantum_sub (e f : Nat) :
    1 ≤ targetQuantum (magnitude64 e f).1 (magnitude64 e f).2 - (magnitude64 e f).2 := by
  obtain ⟨hnormal, hdenormal⟩ := targetQuantum_sub_ge (e := e) (f := f)
  by_cases he : e = 0
  · exact le_trans (by decide) (hdenormal he)
  · exact le_trans (by decide) (hnormal he)

theorem magnitude64_ne_zero {e f : Nat} (h : ¬ (e = 0 ∧ f = 0)) : (magnitude64 e f).1 ≠ 0 := by
  unfold magnitude64
  split
  · next he => exact fun hf => h ⟨he, hf⟩
  · positivity

end Quantum

/-! ### The bits of the packed result -/

/-- An integer `m` below `2^24` at the quantum `k - 149` gives the pattern `k * 2^23 + m`, from which the one of the
infinity cuts off: the implicit one of a normal number carries into the exponent field, and a denormal one
has `k = 0`. -/
theorem packRounded_toNat (s : BitVec 1) {m k : Nat} (hm : m < 2 ^ 24) (hnorm : 2 ^ 23 ≤ m ∨ k = 0) :
    (packRounded s m (k - 149)).toNat % 2 ^ 31 = min (k * 2 ^ 23 + m) 0x7F800000 := by
  unfold packRounded
  split_ifs with hnormal hinf
  · simp only [infinity32, pack32_toNat, BitVec.ofNat_eq_ofNat, BitVec.toNat_ofNat]
    omega
  · simp only [pack32_toNat, BitVec.toNat_ofNat, BitVec.toNat_ofInt]
    omega
  · simp only [pack32_toNat, BitVec.ofNat_eq_ofNat, BitVec.toNat_ofNat]
    omega

/-- A rounding that carried out to `2^24` is one more carry of the same sum (R61). -/
theorem packRounded_renormalise_toNat (s : BitVec 1) {m k : Nat} (hm : m ≤ 2 ^ 24) (hnorm : 2 ^ 23 ≤ m ∨ k = 0) :
    (packRounded s (renormalise m (k - 149)).1 (renormalise m (k - 149)).2).toNat % 2 ^ 31 =
      min (k * 2 ^ 23 + m) 0x7F800000 := by
  unfold renormalise
  split
  · next hcarry =>
    rw [show (k : Int) - 149 + 1 = (k + 1 : Nat) - 149 by omega, packRounded_toNat s (by decide) (.inl le_rfl), hcarry]
    omega
  · exact packRounded_toNat s (by omega) hnorm

/-! ### Narrowing a finite operand that is not zero -/

section Finite
variable {m sh k : Nat} {x : Int}

theorem rneShift_le_two_pow (hq : targetQuantum m x = x + sh) : rneShift m sh ≤ 2 ^ 24 :=
  rneShift_le (lt_of_targetQuantum hq)

theorem le_rneShift_or_smallest (hm : m ≠ 0) (hq : targetQuantum m x = x + sh) (hk : targetQuantum m x = k - 149) :
    2 ^ 23 ≤ rneShift m sh ∨ k = 0 := by
  by_cases hlarge : targetQuantum m x = -149
  · exact .inr (by omega)
  · exact .inl (le_rneShift (le_of_targetQuantum hm hq hlarge))

/-- The pattern of a finite operand `m * 2^x` below the sign: its rounded integer at the quantum `k - 149`. -/
theorem narrowFinite_toNat (s : BitVec 1) (hm : m ≠ 0) (hq : targetQuantum m x = x + sh)
    (hk : targetQuantum m x = k - 149) :
    (narrowFinite s m x).toNat % 2 ^ 31 = min (k * 2 ^ 23 + rneShift m sh) 0x7F800000 := by
  have hsh : (targetQuantum m x - x).toNat = sh := by omega
  rw [← packRounded_renormalise_toNat s (rneShift_le_two_pow hq) (le_rneShift_or_smallest hm hq hk), ← hk, ← hsh]
  rfl

/-- The shift and the quantum of a finite operand as natural numbers. -/
theorem exists_shift_quantum (e f : Nat) :
    ∃ sh k : Nat, 1 ≤ sh ∧ targetQuantum (magnitude64 e f).1 (magnitude64 e f).2 = (magnitude64 e f).2 + sh ∧
      targetQuantum (magnitude64 e f).1 (magnitude64 e f).2 = k - 149 := by
  have hshift := one_le_targetQuantum_sub e f
  have hge := targetQuantum_ge (magnitude64 e f).1 (magnitude64 e f).2
  exact ⟨(targetQuantum (magnitude64 e f).1 (magnitude64 e f).2 - (magnitude64 e f).2).toNat,
    (targetQuantum (magnitude64 e f).1 (magnitude64 e f).2 + 149).toNat, by omega, by omega, by omega⟩

end Finite

theorem magnitude64_cases (e f : Nat) :
    (e = 0 ∧ (magnitude64 e f).1 = f ∧ (magnitude64 e f).2 = -1074) ∨
    (e ≠ 0 ∧ (magnitude64 e f).1 = 2 ^ 52 + f ∧ (magnitude64 e f).2 = (e : Int) - 1075) := by
  unfold magnitude64
  split
  · next he => exact .inl ⟨he, rfl, rfl⟩
  · next he => exact .inr ⟨he, rfl, rfl⟩

/-- The five cases of R57 and R61 are the places of `k * 2^23 + m` around the pattern of the infinity. -/
theorem packed_cases {m k : Nat} {bits : BitVec 31} (hm : m ≤ 2 ^ 24) (hnorm : 2 ^ 23 ≤ m ∨ k = 0)
    (hbits : bits.toNat = min (k * 2 ^ 23 + m) 0x7F800000) (q : Int) (hq : q = k - 149) :
    (m < 2 ^ 23 ∧ bits = BitVec.ofNat 31 m) ∨
    (2 ^ 23 ≤ m ∧ m < 2 ^ 24 ∧ q + 150 < 255 ∧ bits = BitVec.ofInt 31 ((q + 150) * 2 ^ 23 + ((m : Int) - 2 ^ 23))) ∨
    (m = 2 ^ 24 ∧ q + 151 < 255 ∧ bits = BitVec.ofInt 31 ((q + 151) * 2 ^ 23)) ∨
    (2 ^ 23 ≤ m ∧ m < 2 ^ 24 ∧ 255 ≤ q + 150 ∧ bits = 0x7F800000#31) ∨
    (m = 2 ^ 24 ∧ 255 ≤ q + 151 ∧ bits = 0x7F800000#31) := by
  subst hq
  simp only [← BitVec.toNat_inj, hbits, BitVec.toNat_ofNat, BitVec.toNat_ofInt]
  obtain hlow | ⟨hmid, hlt⟩ | rfl : m < 2 ^ 23 ∨ (2 ^ 23 ≤ m ∧ m < 2 ^ 24) ∨ m = 2 ^ 24 := by omega
  · exact .inl ⟨hlow, by omega⟩
  · by_cases hinf : k + 1 < 255
    · exact .inr (.inl ⟨hmid, hlt, by omega, by omega⟩)
    · exact .inr (.inr (.inr (.inl ⟨hmid, hlt, by omega, by omega⟩)))
  · by_cases hinf : k + 2 < 255
    · exact .inr (.inr (.inl ⟨rfl, by omega, by omega⟩))
    · exact .inr (.inr (.inr (.inr ⟨rfl, by omega, by omega⟩)))

/-! ### The obligations -/

/-- Settles O31: the mantissa of the parameter is its open value plus one, and the default sets mantissa bit 22. -/
theorem nanNarrowsToNan : Obligations.NanNarrowsToNan :=
  ⟨fun k _ => isNan32_narrow32 k, isNan32_narrowNanDefault⟩

/-- Settles O32: the sign and the mantissa less one of a binary32 NaN give it back. -/
theorem nanParameterReachesEveryNan : Obligations.NanParameterReachesEveryNan := fun _ =>
  ⟨exists_packNan_eq, fun ⟨sign, m, h⟩ => h ▸ isNan32_packNan sign m⟩

/-- Settles O33: every case but the NaN's packs the operand's sign, and the default pattern begins with it. -/
theorem narrowingKeepsTheSign : Obligations.NarrowingKeepsTheSign := by
  refine ⟨fun k d h => narrow32With_msb h, fun d => ?_⟩
  by_cases h : IsNan64 d
  · rw [narrow32With_nan h, narrowNanDefault_eq_pack32, pack32_msb]
    exact signField_double_msb d
  · exact narrow32With_msb h

/-- Settles O34: the four operands are in the cases of R57 that round nothing. -/
theorem infinitiesAndZerosNarrowExactly : Obligations.InfinitiesAndZerosNarrowExactly := fun _ =>
  ⟨narrow32With_infinity rfl rfl, narrow32With_infinity rfl rfl, narrow32With_zero rfl rfl, narrow32With_zero rfl rfl⟩

/-- Settles O35: the remainder is compared with one half. -/
theorem rneShiftIsNearestTiesToEven : Obligations.RneShiftIsNearestTiesToEven := rneShift_half

/-- Settles O36: a normal operand has 53 bits and a denormal one the exponent -1074. -/
theorem narrowingShiftsByAtLeastOne : Obligations.NarrowingShiftsByAtLeastOne := by
  intro e f _ _ _
  have hshift := one_le_targetQuantum_sub e f
  exact ⟨hshift, rneShift_le_two_pow (x := (magnitude64 e f).2) (by omega), targetQuantum_sub_ge⟩

/-- Settles O37: the algorithm's own values, with the packed bits as one sum. -/
theorem narrowingFollowsTheIntegerAlgorithm : Obligations.NarrowingFollowsTheIntegerAlgorithm := by
  intro k d e f he hf hexp hzero
  have hraw : (rawExpField .double d).toNat = e := (rawExpField_toNat .double d).trans he.symm
  have hmant : (mantField .double d).toNat = f := (mantField_toNat .double d).trans hf.symm
  obtain ⟨sh, j, hsh, hq, hj⟩ := exists_shift_quantum e f
  have hM := magnitude64_ne_zero hzero
  have hnarrow : narrow32 k d = narrowFinite (signField .double d) (magnitude64 e f).1 (magnitude64 e f).2 := by
    rw [narrow32, narrow32With_finite (hraw ▸ hexp) (by rwa [hraw, hmant]), hraw, hmant]
  have hbits : ((narrow32 k d).extractLsb' 0 31).toNat =
      min (j * 2 ^ 23 + rneShift (magnitude64 e f).1 sh) 0x7F800000 := by
    rw [hnarrow, BitVec.extractLsb'_toNat]
    exact narrowFinite_toNat _ hM hq hj
  obtain ⟨hhalf, htie⟩ := rneShift_half (magnitude64 e f).1 sh hsh
  have hpow : (targetQuantum (magnitude64 e f).1 (magnitude64 e f).2 - (magnitude64 e f).2).toNat = sh := by omega
  refine ⟨(magnitude64 e f).1, bitLength (magnitude64 e f).1, rneShift (magnitude64 e f).1 sh, (magnitude64 e f).2,
    targetQuantum (magnitude64 e f).1 (magnitude64 e f).2, magnitude64_cases e f, two_pow_le_of_bitLength hM,
    lt_two_pow_bitLength _, rfl, by omega, ?_⟩
  rw [hpow]
  exact ⟨hhalf, htie, packed_cases (rneShift_le_two_pow hq) (le_rneShift_or_smallest hM hq hj) hbits _ hj⟩

end Sys2Proof.Machine
end

section
/-! PROOFS. The value a layout denotes (10_state.md R16, log entry 16), in the terms of the bits below its sign: a
number that grows with them, so that the class and the value are read off from where they lie. -/

namespace Sys2Proof.Machine

open Sys2Proof.Claims

/-! ### The bits below the sign -/

/-- The bits of a layout below its sign, exponent and mantissa together, as a number. -/
def magnitudeBits (p : Precision) (l : Word64) : Nat := l.toNat % 2 ^ (p.width - 1)

/-- Is the sign bit of a layout set? -/
def isNegative (p : Precision) (l : Word64) : Bool := decide (signField p l = 1)

section Bits
variable (p : Precision) (l : Word64)

theorem rawExpField_eq_div : (rawExpField p l).toNat = magnitudeBits p l / 2 ^ p.mantWidth := by
  rw [rawExpField_toNat, BitVec.extractLsb'_toNat, Nat.shiftRight_eq_div_pow]
  cases p <;> simp only [magnitudeBits, Precision.width, Precision.mantWidth, Precision.expWidth] <;> omega

theorem mantField_eq_mod : (mantField p l).toNat = magnitudeBits p l % 2 ^ p.mantWidth := by
  rw [mantField_toNat, BitVec.extractLsb'_toNat, Nat.shiftRight_zero]
  cases p <;> simp only [magnitudeBits, Precision.width, Precision.mantWidth] <;> omega

theorem isNegative_eq (h : l.toNat < 2 ^ p.width) :
    isNegative p l = decide (2 ^ (p.width - 1) ≤ l.toNat) := by
  have hlt := l.isLt
  rw [isNegative, decide_eq_decide, signField, ← BitVec.toNat_inj, BitVec.extractLsb'_toNat,
    Nat.shiftRight_eq_div_pow]
  cases p <;> simp only [Precision.width, BitVec.ofNat_eq_ofNat, BitVec.toNat_ofNat] at h ⊢ <;> omega

theorem magnitudeBits_lt_max_iff :
    magnitudeBits p l < p.rawExpMax * 2 ^ p.mantWidth ↔ (rawExpField p l).toNat < p.rawExpMax := by
  rw [rawExpField_eq_div, Nat.div_lt_iff_lt_mul (by positivity)]

theorem magnitudeBits_lt_mantissa_iff : magnitudeBits p l < 2 ^ p.mantWidth ↔ (rawExpField p l).toNat = 0 := by
  rw [rawExpField_eq_div, Nat.div_eq_zero_iff_lt (by positivity)]

theorem magnitudeBits_eq_max_iff : magnitudeBits p l = p.rawExpMax * 2 ^ p.mantWidth ↔
    (rawExpField p l).toNat = p.rawExpMax ∧ (mantField p l).toNat = 0 := by
  rw [rawExpField_eq_div, mantField_eq_mod, Nat.div_mod_unique (by positivity)]
  exact ⟨fun h => ⟨by rw [h]; ring, by positivity⟩, fun h => by rw [← h.1]; ring⟩

theorem magnitudeBits_eq_zero_iff :
    magnitudeBits p l = 0 ↔ (rawExpField p l).toNat = 0 ∧ (mantField p l).toNat = 0 := by
  rw [rawExpField_eq_div, mantField_eq_mod, Nat.div_mod_unique (by positivity)]
  exact ⟨fun h => ⟨by rw [h]; ring, by positivity⟩, fun h => by rw [← h.1]; ring⟩

/-- The class of a layout from the bits below its sign: the table of R69 in one order. -/
theorem classOf_eq : classOf p l =
    if magnitudeBits p l = 0 then .zero
    else if magnitudeBits p l < 2 ^ p.mantWidth then .denormalized
    else if magnitudeBits p l < p.rawExpMax * 2 ^ p.mantWidth then .normalized
    else if magnitudeBits p l = p.rawExpMax * 2 ^ p.mantWidth then .infinity
    else .nan := by
  have hmax := rawExpField_le p l
  have hmant : mantField p l = 0 ↔ (mantField p l).toNat = 0 := BitVec.toNat_eq (y := 0#52)
  simp only [magnitudeBits_eq_zero_iff, magnitudeBits_lt_mantissa_iff, magnitudeBits_lt_max_iff,
    magnitudeBits_eq_max_iff, ← hmant]
  unfold classOf classify
  split
  · next he =>
    split
    · next hm => rw [if_pos ⟨he, hm⟩]
    · next hm => rw [if_neg (hm ·.2)]
  · next he =>
    split
    · next hinf =>
      split
      · next hm => rw [if_neg (he ·.1), if_neg hinf.not_lt, if_pos ⟨hinf, hm⟩]
      · next hm => rw [if_neg (he ·.1), if_neg hinf.not_lt, if_neg (hm ·.2)]
    · next hinf => rw [if_neg (he ·.1), if_pos (lt_of_le_of_ne hmax hinf)]

end Bits

/-- A layout within its width is its sign and the bits below it. -/
theorem layout_ext {p : Precision} {l m : Word64} (hl : l.toNat < 2 ^ p.width) (hm : m.toNat < 2 ^ p.width)
    (hsign : isNegative p l = isNegative p m) (hbits : magnitudeBits p l = magnitudeBits p m) : l = m := by
  apply BitVec.eq_of_toNat_eq
  rw [isNegative_eq p l hl, isNegative_eq p m hm, decide_eq_decide] at hsign
  unfold magnitudeBits at hbits
  cases p <;> simp only [Precision.width] at * <;> omega

/-! ### The number the bits denote -/

/-- The magnitude that a pattern of bits below the sign denotes (R16), for every number of bits: the patterns above the
largest finite one continue the scale of the normal numbers. -/
def magnitudeAt (p : Precision) (b : Nat) : ℚ := finiteMagnitude p (b / 2 ^ p.mantWidth) (b % 2 ^ p.mantWidth)

/-- The quantum of the patterns with raw exponent `k + 1`, and of the denormal ones for `k = 0`, as an exponent of 2. -/
def quantumAt (p : Precision) (k : Nat) : ℤ := (k : ℤ) + 1 - p.bias - p.mantWidth

section Magnitude
variable (p : Precision)

theorem finiteMagnitude_zero (f : Nat) : finiteMagnitude p 0 f = f * 2 ^ quantumAt p 0 := by
  have hquantum : quantumAt p 0 = (1 - (p.bias : ℤ)) - p.mantWidth := by simp [quantumAt]
  rw [finiteMagnitude, if_pos rfl, hquantum, zpow_sub₀ two_ne_zero (1 - (p.bias : ℤ)), zpow_natCast]
  ring

theorem finiteMagnitude_succ (k f : Nat) :
    finiteMagnitude p (k + 1) f = (2 ^ p.mantWidth + f : Nat) * 2 ^ quantumAt p k := by
  rw [finiteMagnitude, if_neg (Nat.succ_ne_zero k), quantumAt, zpow_sub₀ two_ne_zero ((k : ℤ) + 1 - p.bias),
    zpow_natCast]
  push_cast
  field_simp

/-- An integer of one bit more than the mantissa at its quantum, or a smaller one at the smallest quantum. -/
theorem magnitudeAt_scaled {k m : Nat} (hm : m ≤ 2 * 2 ^ p.mantWidth) (hnorm : 2 ^ p.mantWidth ≤ m ∨ k = 0) :
    magnitudeAt p (k * 2 ^ p.mantWidth + m) = m * 2 ^ quantumAt p k := by
  have hpos : 0 < 2 ^ p.mantWidth := by positivity
  unfold magnitudeAt
  obtain hlow | ⟨f, hf, rfl⟩ | rfl : m < 2 ^ p.mantWidth ∨ (∃ f < 2 ^ p.mantWidth, m = 2 ^ p.mantWidth + f) ∨
      m = 2 * 2 ^ p.mantWidth := by
    by_cases hlow : m < 2 ^ p.mantWidth
    · exact .inl hlow
    · by_cases htop : m = 2 * 2 ^ p.mantWidth
      · exact .inr (.inr htop)
      · exact .inr (.inl ⟨m - 2 ^ p.mantWidth, by omega, by omega⟩)
  · obtain rfl : k = 0 := hnorm.resolve_left (not_le.mpr hlow)
    rw [Nat.zero_mul, Nat.zero_add, Nat.div_eq_of_lt hlow, Nat.mod_eq_of_lt hlow, finiteMagnitude_zero]
  · rw [← Nat.add_assoc, ← Nat.succ_mul, Nat.mul_comm, Nat.mul_add_div hpos, Nat.mul_add_mod, Nat.div_eq_of_lt hf,
      Nat.mod_eq_of_lt hf, Nat.add_zero, finiteMagnitude_succ]
  · rw [← Nat.add_mul, Nat.mul_div_cancel _ hpos, Nat.mul_mod_left, finiteMagnitude_succ, quantumAt, quantumAt,
      show ((k + 1 : Nat) : ℤ) + 1 - p.bias - p.mantWidth = ((k : ℤ) + 1 - p.bias - p.mantWidth) + 1 by push_cast; ring,
      zpow_add_one₀ (by norm_num)]
    push_cast
    ring

/-- Every pattern is such an integer at its quantum. -/
theorem exists_scaled (b : Nat) :
    ∃ k m, b = k * 2 ^ p.mantWidth + m ∧ m < 2 * 2 ^ p.mantWidth ∧ (2 ^ p.mantWidth ≤ m ∨ k = 0) := by
  have hmod := Nat.mod_lt b (by positivity : 0 < 2 ^ p.mantWidth)
  have hdiv := Nat.div_add_mod' b (2 ^ p.mantWidth)
  cases hk : b / 2 ^ p.mantWidth with
  | zero =>
    rw [hk] at hdiv
    exact ⟨0, b, by omega, by omega, .inr rfl⟩
  | succ k =>
    rw [hk, Nat.succ_mul] at hdiv
    exact ⟨k, 2 ^ p.mantWidth + b % 2 ^ p.mantWidth, by omega, by omega, .inl (by omega)⟩

theorem magnitudeAt_strictMono : StrictMono (magnitudeAt p) := by
  refine strictMono_nat_of_lt_succ fun b => ?_
  obtain ⟨k, m, rfl, hm, hnorm⟩ := exists_scaled p b
  rw [Nat.add_assoc, magnitudeAt_scaled p hm.le hnorm, magnitudeAt_scaled p hm (by omega)]
  exact mul_lt_mul_of_pos_right (by exact_mod_cast Nat.lt_succ_self m) (by positivity)

@[simp] theorem magnitudeAt_zero : magnitudeAt p 0 = 0 := by
  rw [magnitudeAt, Nat.zero_div, Nat.zero_mod, finiteMagnitude_zero, Nat.cast_zero, zero_mul]

theorem magnitudeAt_nonneg (b : Nat) : 0 ≤ magnitudeAt p b :=
  (magnitudeAt_zero p).ge.trans ((magnitudeAt_strictMono p).monotone (Nat.zero_le b))

theorem magnitudeAt_pos {b : Nat} (h : 0 < b) : 0 < magnitudeAt p b :=
  (magnitudeAt_zero p).ge.trans_lt (magnitudeAt_strictMono p h)

/-- From the first pattern of a quantum on, every magnitude is a multiple of it. -/
theorem exists_magnitudeAt_eq_mul {k j : Nat} (h : k = 0 ∨ (k + 1) * 2 ^ p.mantWidth ≤ j) :
    ∃ c : Nat, magnitudeAt p j = c * 2 ^ quantumAt p k := by
  obtain ⟨i, m, rfl, hm, hnorm⟩ := exists_scaled p j
  have hle : k ≤ i := by
    obtain rfl | h := h
    · exact Nat.zero_le i
    · by_contra! hlt
      have : (i + 2) * 2 ^ p.mantWidth ≤ (k + 1) * 2 ^ p.mantWidth := Nat.mul_le_mul_right _ (by omega)
      rw [Nat.add_mul] at this
      omega
  refine ⟨m * 2 ^ (i - k), ?_⟩
  have hquantum : quantumAt p i = ((i - k : Nat) : ℤ) + quantumAt p k := by
    unfold quantumAt
    omega
  rw [magnitudeAt_scaled p hm.le hnorm, hquantum, zpow_add₀ (by norm_num), zpow_natCast]
  push_cast
  ring

end Magnitude

/-! ### What a layout denotes -/

section Denote
variable {p : Precision} {l : Word64}

/-- The four kinds of R16, in the order of the bits below the sign. -/
theorem denote_eq (p : Precision) (l : Word64) : denote p l =
    if magnitudeBits p l = 0 then .zero (isNegative p l)
    else if magnitudeBits p l < p.rawExpMax * 2 ^ p.mantWidth then
      .finite (signFactor (isNegative p l) * magnitudeAt p (magnitudeBits p l))
    else if magnitudeBits p l = p.rawExpMax * 2 ^ p.mantWidth then .infinity (isNegative p l)
    else .nan := by
  have hmax : 2 ^ p.mantWidth ≤ p.rawExpMax * 2 ^ p.mantWidth := Nat.le_mul_of_pos_left _ (by cases p <;> decide)
  rw [denote, classOf_eq, rawExpField_eq_div, mantField_eq_mod]
  by_cases hmant : magnitudeBits p l < 2 ^ p.mantWidth
  · simp only [if_pos hmant, if_pos (hmant.trans_le hmax)]
    split_ifs <;> rfl
  · simp only [if_neg hmant]
    split_ifs <;> rfl

theorem denote_eq_zero_iff {n : Bool} : denote p l = .zero n ↔ magnitudeBits p l = 0 ∧ isNegative p l = n := by
  rw [denote_eq]
  split_ifs with h <;> simp [h]

theorem denote_eq_finite_iff {x : ℚ} : denote p l = .finite x ↔
    (0 < magnitudeBits p l ∧ magnitudeBits p l < p.rawExpMax * 2 ^ p.mantWidth) ∧
      x = signFactor (isNegative p l) * magnitudeAt p (magnitudeBits p l) := by
  rw [denote_eq]
  split_ifs with hzero hlt
  · simp [hzero]
  · simp [Nat.pos_of_ne_zero hzero, hlt, eq_comm]
  · simp [hlt]
  · simp [hlt]

theorem denote_eq_infinity_iff {n : Bool} : denote p l = .infinity n ↔
    magnitudeBits p l = p.rawExpMax * 2 ^ p.mantWidth ∧ isNegative p l = n := by
  have hpos : 0 < p.rawExpMax * 2 ^ p.mantWidth := by cases p <;> decide
  rw [denote_eq]
  split_ifs with hzero hlt heq
  · simp [hzero, hpos.ne]
  · simp [hlt.ne]
  · simp [heq]
  · simp [heq]

theorem denote_eq_nan_iff : denote p l = .nan ↔ p.rawExpMax * 2 ^ p.mantWidth < magnitudeBits p l := by
  rw [denote_eq]
  split_ifs with hzero hlt heq
  · simp [hzero]
  · simp [hlt.le]
  · simp [heq]
  · simpa using by omega

/-- The real value of a layout, the zeros included (R10, R16). -/
theorem realValue_eq_some_iff {v : ℚ} : realValue p l = some v ↔
    magnitudeBits p l < p.rawExpMax * 2 ^ p.mantWidth ∧
      v = signFactor (isNegative p l) * magnitudeAt p (magnitudeBits p l) := by
  have hpos : 0 < p.rawExpMax * 2 ^ p.mantWidth := by cases p <;> decide
  rw [realValue, denote_eq]
  split_ifs with hzero hlt heq
  · simp [hzero, hpos, eq_comm]
  · simp [hlt, eq_comm]
  · simp [hlt]
  · simp [hlt]

theorem abs_signFactor_mul (n : Bool) {a : ℚ} (ha : 0 ≤ a) : |signFactor n * a| = a := by
  cases n <;> simp [signFactor, abs_of_nonneg ha]

theorem abs_realValue {v : ℚ} (h : realValue p l = some v) : |v| = magnitudeAt p (magnitudeBits p l) := by
  obtain ⟨-, rfl⟩ := realValue_eq_some_iff.mp h
  exact abs_signFactor_mul _ (magnitudeAt_nonneg p _)

theorem signFactor_injective : Function.Injective signFactor := by
  intro m n
  revert m n
  decide

theorem signFactor_mul_inj {m n : Bool} {a b : ℚ} (ha : 0 < a) (hb : 0 < b) (h : signFactor m * a = signFactor n * b) :
    m = n ∧ a = b := by
  obtain rfl : a = b := by rw [← abs_signFactor_mul m ha.le, h, abs_signFactor_mul n hb.le]
  exact ⟨signFactor_injective (mul_right_cancel₀ ha.ne' h), rfl⟩

/-- Two layouts of one precision that denote the same, and not nothing, are one (R16). -/
theorem denote_injective {m : Word64} (hl : l.toNat < 2 ^ p.width) (hm : m.toNat < 2 ^ p.width)
    (hnan : denote p m ≠ .nan) (h : denote p l = denote p m) : l = m := by
  suffices isNegative p l = isNegative p m ∧ magnitudeBits p l = magnitudeBits p m from
    layout_ext hl hm this.1 this.2
  cases hdenoted : denote p m with
  | zero n =>
    obtain ⟨hlbits, hlsign⟩ := denote_eq_zero_iff.mp (h.trans hdenoted)
    obtain ⟨hmbits, hmsign⟩ := denote_eq_zero_iff.mp hdenoted
    exact ⟨hlsign.trans hmsign.symm, hlbits.trans hmbits.symm⟩
  | finite x =>
    obtain ⟨⟨hlpos, -⟩, hlvalue⟩ := denote_eq_finite_iff.mp (h.trans hdenoted)
    obtain ⟨⟨hmpos, -⟩, hmvalue⟩ := denote_eq_finite_iff.mp hdenoted
    obtain ⟨hsign, hmagnitude⟩ := signFactor_mul_inj (magnitudeAt_pos p hlpos) (magnitudeAt_pos p hmpos)
      (hlvalue.symm.trans hmvalue)
    exact ⟨hsign, (magnitudeAt_strictMono p).injective hmagnitude⟩
  | infinity n =>
    obtain ⟨hlbits, hlsign⟩ := denote_eq_infinity_iff.mp (h.trans hdenoted)
    obtain ⟨hmbits, hmsign⟩ := denote_eq_infinity_iff.mp hdenoted
    exact ⟨hlsign.trans hmsign.symm, hlbits.trans hmbits.symm⟩
  | nan => exact absurd hdenoted hnan

end Denote

/-! ### The two word sizes -/

theorem magnitudeBits_single (x : Word32) : magnitudeBits .single (x.setWidth 64) = x.toNat % 2 ^ 31 := by
  have := x.isLt
  simp only [magnitudeBits, Precision.width, BitVec.toNat_setWidth]
  omega

theorem isNegative_single (x : Word32) : isNegative .single (x.setWidth 64) = x.msb := by
  have hlt := x.isLt
  have hwide : (x.setWidth 64).toNat = x.toNat := by
    rw [BitVec.toNat_setWidth]
    omega
  rw [isNegative_eq .single _ (hwide.trans_lt hlt), BitVec.msb_eq_decide, hwide]
  rfl

theorem isNegative_double (d : Word64) : isNegative .double d = d.msb := by
  rw [isNegative_eq .double _ d.isLt, BitVec.msb_eq_decide]
  rfl

/-- A binary32 pattern is its sign and the bits below it. -/
theorem word32_ext {x y : Word32} (hsign : x.msb = y.msb) (hbits : x.toNat % 2 ^ 31 = y.toNat % 2 ^ 31) : x = y := by
  apply BitVec.eq_of_toNat_eq
  rw [BitVec.msb_eq_decide, BitVec.msb_eq_decide, decide_eq_decide] at hsign
  omega

theorem isNan64_iff_magnitudeBits (d : Word64) : IsNan64 d ↔ 0x7FF * 2 ^ 52 < magnitudeBits .double d := by
  have hlt : magnitudeBits .double d < 2 ^ 63 := Nat.mod_lt _ (by positivity)
  rw [isNan64_iff, rawExpField_eq_div, mantField_eq_mod]
  simp only [Precision.mantWidth]
  omega

/-! ### The value of `ABS` -/

theorem magnitudeBits_absVal (v : Word64) : magnitudeBits .double (absVal v) = magnitudeBits .double v := by
  have h := congrArg BitVec.toNat (extractLsb'_absVal v (start := 0) (len := 63) le_rfl)
  rwa [BitVec.extractLsb'_toNat, BitVec.extractLsb'_toNat] at h

theorem isNegative_absVal (v : Word64) : isNegative .double (absVal v) = false := by
  rw [isNegative, show signField .double (absVal v) = 0#1 from extractLsb'_absVal_sign v]
  rfl

/-- Settles O28: `absVal` keeps the bits below the sign and clears the sign. -/
theorem absDenotesTheAbsoluteValue : Obligations.AbsDenotesTheAbsoluteValue := by
  intro i s d hi hd
  refine ⟨_, absVal d, exec_written hd, commandOp_convert_abs hi s.instNo d Results.invalid, fun v hv => ?_⟩
  obtain ⟨hfinite, -⟩ := realValue_eq_some_iff.mp hv
  rw [value64, realValue_eq_some_iff, abs_realValue hv, magnitudeBits_absVal, isNegative_absVal]
  exact ⟨hfinite, (one_mul _).symm⟩

end Sys2Proof.Machine
end

section
/-! PROOFS. What the narrowing is worth (40_encode.md sections 2 and 3): the packed pattern is the nearest of all, even
on a tie, and the thresholds of R65 and R66 are midpoints of neighbouring patterns. -/

namespace Sys2Proof.Machine

open Sys2Proof.Claims

/-! ### The nearest pattern -/

/-- The magnitude of pattern `b` is the nearest to `v` of all patterns, and where another is as near `b` is even. The
patterns are those of `magnitudeAt`, which has no largest one. -/
def IsNearestEven (v : ℚ) (b : Nat) : Prop :=
  ∀ j, |v - magnitudeAt .single b| ≤ |v - magnitudeAt .single j| ∧
    (|v - magnitudeAt .single b| = |v - magnitudeAt .single j| → j ≠ b → b % 2 = 0)

theorem quantumAt_single (k : Nat) : quantumAt .single k = (k : ℤ) - 149 := by
  simp only [quantumAt, Precision.bias, Precision.mantWidth]
  omega

theorem quantumAt_double (k : Nat) : quantumAt .double k = (k : ℤ) - 1074 := by
  simp only [quantumAt, Precision.bias, Precision.mantWidth]
  omega

theorem magnitudeAt_single {k m : Nat} (hm : m ≤ 2 ^ 24) (hnorm : 2 ^ 23 ≤ m ∨ k = 0) :
    magnitudeAt .single (k * 2 ^ 23 + m) = m * 2 ^ ((k : ℤ) - 149) := by
  rw [← quantumAt_single]
  exact magnitudeAt_scaled .single hm hnorm

theorem magnitudeAt_double {k m : Nat} (hm : m ≤ 2 ^ 53) (hnorm : 2 ^ 52 ≤ m ∨ k = 0) :
    magnitudeAt .double (k * 2 ^ 52 + m) = m * 2 ^ ((k : ℤ) - 1074) := by
  rw [← quantumAt_double]
  exact magnitudeAt_scaled .double hm hnorm

/-- The distance of `m * 2^x` from a multiple of a larger quantum, as an integer at the smaller one. -/
theorem abs_sub_scaled (m sh : Nat) (c x : ℤ) :
    |(m : ℚ) * 2 ^ x - c * 2 ^ (x + sh)| = (|(m : ℤ) - c * 2 ^ sh| : ℤ) * 2 ^ x := by
  have hscale : (m : ℚ) * 2 ^ x - c * 2 ^ (x + sh) = ((m : ℤ) - c * 2 ^ sh : ℤ) * 2 ^ x := by
    rw [zpow_add₀ two_ne_zero, zpow_natCast]
    push_cast
    ring
  rw [hscale, abs_mul, abs_of_pos (zpow_pos two_pos x : (0 : ℚ) < 2 ^ x), Int.cast_abs]

section Rounding
variable {m sh k : Nat} {x : ℤ}

/-- Among the multiples of its quantum the rounded integer is the nearest (R59). -/
theorem rneShift_nearest_multiple (hsh : 1 ≤ sh) (c : ℤ) :
    |(m : ℚ) * 2 ^ x - (rneShift m sh : ℤ) * 2 ^ (x + sh)| ≤ |(m : ℚ) * 2 ^ x - c * 2 ^ (x + sh)| ∧
    (|(m : ℚ) * 2 ^ x - (rneShift m sh : ℤ) * 2 ^ (x + sh)| = |(m : ℚ) * 2 ^ x - c * 2 ^ (x + sh)| →
      c ≠ rneShift m sh → rneShift m sh % 2 = 0) := by
  obtain ⟨hle, htie⟩ := rneShift_nearest m hsh c
  have hpos : (0 : ℚ) < 2 ^ x := zpow_pos two_pos x
  rw [abs_sub_scaled, abs_sub_scaled]
  refine ⟨mul_le_mul_of_nonneg_right (by exact_mod_cast hle) hpos.le, fun heq => htie ?_⟩
  exact_mod_cast mul_right_cancel₀ hpos.ne' heq

/-- The sum that the narrowing packs is the nearest pattern: every pattern from the first one of its quantum on is a
multiple of the quantum, and those below are farther than that first one. -/
theorem isNearestEven_rneShift (hm : m ≠ 0) (hsh : 1 ≤ sh) (hq : targetQuantum m x = x + sh)
    (hk : targetQuantum m x = k - 149) : IsNearestEven (m * 2 ^ x) (k * 2 ^ 23 + rneShift m sh) := by
  have hquantum : (k : ℤ) - 149 = x + sh := hk.symm.trans hq
  have hb : magnitudeAt .single (k * 2 ^ 23 + rneShift m sh) = (rneShift m sh : ℤ) * 2 ^ (x + sh) := by
    rw [magnitudeAt_single (rneShift_le_two_pow hq) (le_rneShift_or_smallest hm hq hk), hquantum, Int.cast_natCast]
  have hmultiple (j : Nat) (c : ℤ) (hj : magnitudeAt .single j = c * 2 ^ (x + sh)) :
      |m * 2 ^ x - magnitudeAt .single (k * 2 ^ 23 + rneShift m sh)| ≤ |m * 2 ^ x - magnitudeAt .single j| ∧
      (|m * 2 ^ x - magnitudeAt .single (k * 2 ^ 23 + rneShift m sh)| = |m * 2 ^ x - magnitudeAt .single j| →
        j ≠ k * 2 ^ 23 + rneShift m sh → (k * 2 ^ 23 + rneShift m sh) % 2 = 0) := by
    obtain ⟨hle, htie⟩ := rneShift_nearest_multiple (m := m) (x := x) hsh c
    rw [hb, hj]
    refine ⟨hle, fun heq hne => ?_⟩
    have heven := htie heq fun hc => hne ((magnitudeAt_strictMono .single).injective (by rw [hj, hb, hc]))
    omega
  intro j
  by_cases hj : k = 0 ∨ (k + 1) * 2 ^ 23 ≤ j
  · obtain ⟨c, hc⟩ := exists_magnitudeAt_eq_mul .single hj
    rw [quantumAt_single, hquantum] at hc
    exact hmultiple j c (by rw [hc, Int.cast_natCast])
  · obtain ⟨hlarge, hlt⟩ := not_or.mp hj
    have hfirst : magnitudeAt .single ((k + 1) * 2 ^ 23) = (2 ^ 23 : ℤ) * 2 ^ (x + sh) := by
      rw [Nat.succ_mul, magnitudeAt_single (by decide) (.inl le_rfl), hquantum]
      norm_num
    have hbelow : ((2 ^ 23 : ℤ) : ℚ) * 2 ^ (x + sh) ≤ m * 2 ^ x := by
      have hbits : ((2 ^ 23 * 2 ^ sh : Nat) : ℚ) ≤ m := by exact_mod_cast le_of_targetQuantum hm hq (by omega)
      rw [add_comm, zpow_add₀ two_ne_zero, ← mul_assoc, zpow_natCast]
      exact mul_le_mul_of_nonneg_right (by exact_mod_cast hbits) (zpow_pos two_pos x).le
    have hsmaller := magnitudeAt_strictMono .single (not_le.mp hlt)
    obtain ⟨hle, -⟩ := hmultiple _ _ hfirst
    rw [abs_of_nonneg (sub_nonneg.mpr (hfirst.trans_le hbelow))] at hle
    rw [hfirst] at hle hsmaller
    rw [abs_of_nonneg (by linarith : 0 ≤ (m : ℚ) * 2 ^ x - magnitudeAt .single j)]
    exact ⟨by linarith, fun heq _ => by linarith⟩

end Rounding

/-! ### Where the nearest pattern lies -/

section Nearest
variable {v : ℚ} {b : Nat}

theorem abs_sub_le_abs_sub_iff {v a c : ℚ} (h : a < c) : |v - a| ≤ |v - c| ↔ 2 * v ≤ a + c := by
  rw [← sq_le_sq]
  constructor <;> intro hle <;> nlinarith

theorem abs_sub_ge_abs_sub_iff {v a c : ℚ} (h : a < c) : |v - c| ≤ |v - a| ↔ a + c ≤ 2 * v := by
  rw [← sq_le_sq]
  constructor <;> intro hle <;> nlinarith

/-- The nearest pattern is at most `j` exactly if `v` is below the midpoint of `j` and `j + 1`, or on it with
`j` even. -/
theorem IsNearestEven.le_iff (h : IsNearestEven v b) (j : Nat) :
    b ≤ j ↔ 2 * v < magnitudeAt .single j + magnitudeAt .single (j + 1) ∨
      (2 * v = magnitudeAt .single j + magnitudeAt .single (j + 1) ∧ j % 2 = 0) := by
  have hmono := magnitudeAt_strictMono .single
  have hnext := hmono (Nat.lt_succ_self j)
  constructor
  · intro hbj
    obtain ⟨hnear, htie⟩ := h (j + 1)
    have hb := hmono.monotone hbj
    have hmid := (abs_sub_le_abs_sub_iff (hb.trans_lt hnext)).mp hnear
    obtain hlt | heq := (hmid.trans (by linarith : _ ≤ magnitudeAt .single j + magnitudeAt .single (j + 1))).lt_or_eq
    · exact .inl hlt
    · obtain rfl : b = j := hmono.injective (by linarith)
      exact .inr ⟨heq, htie (le_antisymm hnear ((abs_sub_ge_abs_sub_iff hnext).mpr heq.ge)) (Nat.succ_ne_self b)⟩
  · intro hv
    by_contra! hbj
    obtain ⟨hnear, htie⟩ := h j
    have hmid := (abs_sub_ge_abs_sub_iff (hmono hbj)).mp hnear
    have hb := hmono.monotone (Nat.succ_le_of_lt hbj)
    obtain hlt | ⟨heq, heven⟩ := hv
    · linarith
    · obtain rfl : b = j + 1 := hmono.injective (by linarith)
      have hodd := htie (le_antisymm hnear ((abs_sub_le_abs_sub_iff hnext).mpr heq.le)) (Nat.succ_ne_self j).symm
      omega

theorem IsNearestEven.le_of_le (h : IsNearestEven v b) {j : Nat} (hv : v ≤ magnitudeAt .single j) : b ≤ j := by
  have hnext := magnitudeAt_strictMono .single (Nat.lt_succ_self j)
  exact (h.le_iff j).mpr (.inl (by linarith))

theorem IsNearestEven.ge_of_ge (h : IsNearestEven v b) {j : Nat} (hv : magnitudeAt .single j ≤ v) : j ≤ b := by
  by_contra! hb
  obtain ⟨i, rfl⟩ := Nat.exists_eq_succ_of_ne_zero (Nat.ne_zero_of_lt hb)
  have hnext := magnitudeAt_strictMono .single (Nat.lt_succ_self i)
  obtain hmid | ⟨hmid, -⟩ := (h.le_iff i).mp (Nat.le_of_lt_succ hb) <;> linarith

theorem IsNearestEven.eq_of_eq {j : Nat} (h : IsNearestEven (magnitudeAt .single j) b) : b = j :=
  le_antisymm (h.le_of_le le_rfl) (h.ge_of_ge le_rfl)

/-! The thresholds of R65 and R66 are midpoints. -/

theorem magnitudeAt_minNormal : magnitudeAt .single 0x800000 = minNormal := by
  rw [show magnitudeAt .single 0x800000 = _ from magnitudeAt_single (k := 0) (m := 2 ^ 23) (by decide) (.inr rfl),
    minNormal]
  norm_num

theorem magnitudeAt_maxFinite : magnitudeAt .single 0x7F7FFFFF = maxFinite := by
  rw [show magnitudeAt .single 0x7F7FFFFF = _ from
    magnitudeAt_single (k := 253) (m := 0xFFFFFF) (by decide) (.inl (by decide)), maxFinite]
  norm_num

theorem midpoint_zeroUpTo : magnitudeAt .single 0 + magnitudeAt .single 1 = 2 * zeroUpTo := by
  rw [magnitudeAt_zero,
    show magnitudeAt .single 1 = _ from magnitudeAt_single (k := 0) (m := 1) (by decide) (.inr rfl), zeroUpTo]
  norm_num

theorem midpoint_normalFrom : magnitudeAt .single 0x7FFFFF + magnitudeAt .single 0x800000 = 2 * normalFrom := by
  rw [magnitudeAt_minNormal, show magnitudeAt .single 0x7FFFFF = _ from
    magnitudeAt_single (k := 0) (m := 0x7FFFFF) (by decide) (.inr rfl), minNormal, normalFrom]
  norm_num

theorem midpoint_overflowAt : magnitudeAt .single 0x7F7FFFFF + magnitudeAt .single 0x7F800000 = 2 * overflowAt := by
  rw [magnitudeAt_maxFinite, show magnitudeAt .single 0x7F800000 = _ from
    magnitudeAt_single (k := 253) (m := 2 ^ 24) le_rfl (.inl (by decide)), maxFinite, overflowAt]
  norm_num

theorem IsNearestEven.eq_zero_iff (h : IsNearestEven v b) : b = 0 ↔ v ≤ zeroUpTo := by
  rw [← Nat.le_zero, h.le_iff, midpoint_zeroUpTo, le_iff_lt_or_eq]
  simp

theorem IsNearestEven.lt_normal_iff (h : IsNearestEven v b) : b < 0x800000 ↔ v < normalFrom := by
  rw [Nat.lt_succ_iff, h.le_iff, midpoint_normalFrom]
  simp

theorem IsNearestEven.lt_infinity_iff (h : IsNearestEven v b) : b < 0x7F800000 ↔ v < overflowAt := by
  rw [Nat.lt_succ_iff, h.le_iff, midpoint_overflowAt]
  simp

end Nearest

/-! ### The narrowing gives the nearest pattern -/

theorem finiteMagnitude_double (e f : Nat) :
    finiteMagnitude .double e f = (magnitude64 e f).1 * 2 ^ (magnitude64 e f).2 := by
  cases e with
  | zero =>
    rw [finiteMagnitude_zero, quantumAt_double]
    norm_num [magnitude64]
  | succ e =>
    rw [finiteMagnitude_succ, quantumAt_double]
    simp only [magnitude64, if_neg (Nat.succ_ne_zero e), Precision.mantWidth]
    congr 2
    push_cast
    ring

section Narrowing
variable {k : Nat} {d : Word64} {v : ℚ}

theorem rawExpField_ne_of_value64 (h : value64 d = some v) : (rawExpField .double d).toNat ≠ 0x7FF := by
  obtain ⟨hfinite, -⟩ := realValue_eq_some_iff.mp h
  exact ((magnitudeBits_lt_max_iff .double d).mp hfinite).ne

theorem not_isNan64_of_value64 (h : value64 d = some v) : ¬ IsNan64 d := fun hnan =>
  rawExpField_ne_of_value64 h ((isNan64_iff d).mp hnan).1

/-- The key fact on the narrowing: below the sign it gives the nearest pattern, cut off at the infinity. -/
theorem narrow32_isNearestEven (k : Nat) (h : value64 d = some v) :
    ∃ b, IsNearestEven |v| b ∧ (narrow32 k d).toNat % 2 ^ 31 = min b 0x7F800000 := by
  have hexp := rawExpField_ne_of_value64 h
  have hv : |v| = finiteMagnitude .double (rawExpField .double d).toNat (mantField .double d).toNat := by
    rw [abs_realValue h, magnitudeAt, rawExpField_eq_div, mantField_eq_mod]
  by_cases hzero : (rawExpField .double d).toNat = 0 ∧ (mantField .double d).toNat = 0
  · obtain ⟨hexp0, hmant0⟩ := hzero
    refine ⟨0, fun j => ⟨?_, fun _ _ => rfl⟩, ?_⟩
    · rw [hv, hexp0, hmant0, finiteMagnitude_zero, Nat.cast_zero, zero_mul, magnitudeAt_zero, sub_zero, abs_zero]
      exact abs_nonneg _
    · rw [narrow32, narrow32With_zero hexp0 hmant0, pack32_toNat]
      simp
  · obtain ⟨sh, j, hsh, hq, hj⟩ := exists_shift_quantum (rawExpField .double d).toNat (mantField .double d).toNat
    have hM := magnitude64_ne_zero hzero
    rw [hv, finiteMagnitude_double, narrow32, narrow32With_finite hexp hzero]
    exact ⟨_, isNearestEven_rneShift hM hsh hq hj, narrowFinite_toNat _ hM hq hj⟩

theorem narrow32_msb_of_value64 (h : value64 d = some v) : (narrow32 k d).msb = d.msb :=
  narrow32With_msb (not_isNan64_of_value64 h)

/-- A narrowed number is known by its bits below the sign, as the sign is the operand's (R33). -/
theorem narrow32_eq_ite {c : Nat} {neg pos : Word32} (h : value64 d = some v)
    (hbits : (narrow32 k d).toNat % 2 ^ 31 = c) (hneg : neg.msb = true ∧ neg.toNat % 2 ^ 31 = c)
    (hpos : pos.msb = false ∧ pos.toNat % 2 ^ 31 = c) : narrow32 k d = if d.msb then neg else pos := by
  have hmsb := narrow32_msb_of_value64 (k := k) h
  obtain ⟨hnegSign, hnegBits⟩ := hneg
  obtain ⟨hposSign, hposBits⟩ := hpos
  split
  · next hd => exact word32_ext (hmsb.trans (hd.trans hnegSign.symm)) (hbits.trans hnegBits.symm)
  · next hd =>
    exact word32_ext (hmsb.trans ((Bool.eq_false_iff.mpr hd).trans hposSign.symm)) (hbits.trans hposBits.symm)

theorem value64_eq_signed (h : value64 d = some v) : v = signFactor d.msb * |v| := by
  obtain ⟨-, hv⟩ := realValue_eq_some_iff.mp h
  rw [abs_realValue h, ← isNegative_double]
  exact hv

theorem value32_eq_some_iff {x : Word32} {z : ℚ} : value32 x = some z ↔
    x.toNat % 2 ^ 31 < 0x7F800000 ∧ z = signFactor x.msb * magnitudeAt .single (x.toNat % 2 ^ 31) := by
  rw [value32, realValue_eq_some_iff, magnitudeBits_single, isNegative_single]
  rfl

/-- Below the overflow threshold the narrowed operand has a value. -/
theorem narrow32_value (k : Nat) (h : value64 d = some v) (hlt : |v| < overflowAt) :
    ∃ b, IsNearestEven |v| b ∧ (narrow32 k d).toNat % 2 ^ 31 = b ∧
      value32 (narrow32 k d) = some (signFactor d.msb * magnitudeAt .single b) := by
  obtain ⟨b, hb, hbits⟩ := narrow32_isNearestEven k h
  have hfinite := hb.lt_infinity_iff.mpr hlt
  rw [min_eq_left hfinite.le] at hbits
  refine ⟨b, hb, hbits, value32_eq_some_iff.mpr ?_⟩
  rw [narrow32_msb_of_value64 h, hbits]
  exact ⟨hfinite, rfl⟩

end Narrowing

theorem abs_signFactor_sub_same (n : Bool) (a c : ℚ) : |signFactor n * a - signFactor n * c| = |a - c| := by
  cases n
  · simp [signFactor]
  · simp [signFactor, neg_add_eq_sub, abs_sub_comm]

theorem abs_signFactor_sub_opposite {m n : Bool} (h : m ≠ n) {a c : ℚ} (ha : 0 ≤ a) (hc : 0 ≤ c) :
    |signFactor m * a - signFactor n * c| = a + c := by
  obtain rfl : m = !n := Bool.eq_not_of_ne h
  have hsum := abs_of_nonneg (add_nonneg ha hc)
  cases n with
  | false =>
    change |(-1) * a - 1 * c| = a + c
    rw [show (-1) * a - 1 * c = -(a + c) by ring, abs_neg, hsum]
  | true =>
    change |1 * a - (-1) * c| = a + c
    rw [show 1 * a - (-1) * c = a + c by ring, hsum]

theorem getLsbD_zero_of_even {x : Word32} (h : x.toNat % 2 ^ 31 % 2 = 0) : x.getLsbD 0 = false := by
  rw [BitVec.getLsbD, Nat.testBit_zero, decide_eq_false_iff_not]
  omega

/-! ### Against the thresholds and at given patterns -/

/-- The bits of a narrowed operand below the sign, against the thresholds of R65 and R66. -/
theorem narrow32_thresholds (k : Nat) {d : Word64} {v : ℚ} (h : value64 d = some v) :
    (narrow32 k d).toNat % 2 ^ 31 ≤ 0x7F800000 ∧
    ((narrow32 k d).toNat % 2 ^ 31 = 0 ↔ |v| ≤ zeroUpTo) ∧
    ((narrow32 k d).toNat % 2 ^ 31 < 0x800000 ↔ |v| < normalFrom) ∧
    ((narrow32 k d).toNat % 2 ^ 31 < 0x7F800000 ↔ |v| < overflowAt) := by
  obtain ⟨b, hb, hbits⟩ := narrow32_isNearestEven k h
  rw [← hb.eq_zero_iff, ← hb.lt_normal_iff, ← hb.lt_infinity_iff, hbits]
  omega

theorem value64_of_pattern {d : Word64} {m k : Nat} (hm : m ≤ 2 ^ 53) (hnorm : 2 ^ 52 ≤ m ∨ k = 0)
    (hbits : magnitudeBits .double d = k * 2 ^ 52 + m) (hfinite : k * 2 ^ 52 + m < 0x7FF * 2 ^ 52)
    (hsign : d.msb = false) : value64 d = some ((m : ℚ) * 2 ^ ((k : ℤ) - 1074)) := by
  rw [value64, realValue_eq_some_iff, isNegative_double, hsign, hbits, magnitudeAt_double hm hnorm]
  exact ⟨hfinite, (one_mul _).symm⟩

/-- A binary64 denormal is below the first normal pattern, and that is far below `2^-150` (R66). -/
theorem abs_le_zeroUpTo_of_denormal {d : Word64} {v : ℚ} (h : value64 d = some v) (hexp : d.extractLsb' 52 11 = 0#11) :
    |v| ≤ zeroUpTo := by
  have hraw : (rawExpField .double d).toNat = 0 := (rawExpField_toNat .double d).trans (congrArg BitVec.toNat hexp)
  have hlt := magnitudeAt_strictMono .double ((magnitudeBits_lt_mantissa_iff .double d).mpr hraw)
  have hfirst : magnitudeAt .double (2 ^ 52) = (2 ^ 52 : Nat) * 2 ^ (((0 : Nat) : ℤ) - 1074) :=
    magnitudeAt_double (k := 0) (m := 2 ^ 52) (by decide) (.inr rfl)
  calc |v| = magnitudeAt .double (magnitudeBits .double d) := abs_realValue h
    _ ≤ (2 ^ 52 : Nat) * 2 ^ (((0 : Nat) : ℤ) - 1074) := hlt.le.trans hfirst.le
    _ = 2 ^ (-1022 : ℤ) := by
      rw [Nat.cast_pow, Nat.cast_ofNat, ← zpow_natCast, ← zpow_add₀ two_ne_zero]
      rfl
    _ ≤ zeroUpTo := zpow_le_zpow_right₀ one_le_two (by decide)

/-! ### What is represented exactly -/

theorem narrow32_infinity_toNat {d : Word64} (k : Nat) (h : magnitudeBits .double d = 0x7FF * 2 ^ 52) :
    (narrow32 k d).toNat % 2 ^ 31 = 0x7F800000 := by
  obtain ⟨hexp, hmant⟩ := (magnitudeBits_eq_max_iff .double d).mp h
  rw [narrow32, narrow32With_infinity hexp hmant, infinity32, pack32_toNat]
  simp

/-- What a binary32 pattern denotes is narrowed to its bits below the sign, and the signs are the same. -/
theorem narrow32_of_denote_eq {k : Nat} {d : Word64} {x : Word32} (hnan : denote .double d ≠ .nan)
    (h : denote .single (x.setWidth 64) = denote .double d) :
    d.msb = x.msb ∧ (narrow32 k d).toNat % 2 ^ 31 = x.toNat % 2 ^ 31 := by
  rw [← isNegative_double, ← isNegative_single, ← magnitudeBits_single x]
  cases hd : denote .double d with
  | zero n =>
    obtain ⟨hbits, hsign⟩ := denote_eq_zero_iff.mp hd
    obtain ⟨hxbits, hxsign⟩ := denote_eq_zero_iff.mp (h.trans hd)
    obtain ⟨hexp, hmant⟩ := (magnitudeBits_eq_zero_iff .double d).mp hbits
    refine ⟨hsign.trans hxsign.symm, ?_⟩
    rw [narrow32, narrow32With_zero hexp hmant, pack32_toNat, hxbits]
    simp
  | finite v =>
    obtain ⟨⟨hpos, hfinite⟩, hv⟩ := denote_eq_finite_iff.mp hd
    obtain ⟨⟨hxpos, hxfinite⟩, hxv⟩ := denote_eq_finite_iff.mp (h.trans hd)
    obtain ⟨hsign, hmagnitude⟩ := signFactor_mul_inj (magnitudeAt_pos .double hpos) (magnitudeAt_pos .single hxpos)
      (hv.symm.trans hxv)
    have hvalue : value64 d = some v := realValue_eq_some_iff.mpr ⟨hfinite, hv⟩
    obtain ⟨b, hb, hbits⟩ := narrow32_isNearestEven k hvalue
    rw [abs_realValue hvalue, hmagnitude] at hb
    have hle : magnitudeBits .single (x.setWidth 64) ≤ 0x7F800000 := le_of_lt hxfinite
    rw [hb.eq_of_eq, min_eq_left hle] at hbits
    exact ⟨hsign, hbits⟩
  | infinity n =>
    obtain ⟨hbits, hsign⟩ := denote_eq_infinity_iff.mp hd
    obtain ⟨hxbits, hxsign⟩ := denote_eq_infinity_iff.mp (h.trans hd)
    exact ⟨hsign.trans hxsign.symm, (narrow32_infinity_toNat k hbits).trans hxbits.symm⟩
  | nan => exact absurd hd hnan

theorem isNan64_iff_denote (d : Word64) : IsNan64 d ↔ denote .double d = .nan :=
  (isNan64_iff_magnitudeBits d).trans (denote_eq_nan_iff (p := .double)).symm

/-! ### The class of the narrowing -/

/-- The `CLASS` code from the bits below the sign (R69). -/
theorem classCode_classOf_iff (p : Precision) (l : Word64) :
    (classCode (classOf p l) = 0#3 ↔ magnitudeBits p l = 0) ∧
    (classCode (classOf p l) = 1#3 ↔ magnitudeBits p l ≠ 0 ∧ magnitudeBits p l < 2 ^ p.mantWidth) ∧
    (classCode (classOf p l) = 2#3 ↔
      ¬ magnitudeBits p l < 2 ^ p.mantWidth ∧ magnitudeBits p l < p.rawExpMax * 2 ^ p.mantWidth) ∧
    (classCode (classOf p l) = 3#3 ↔ magnitudeBits p l = p.rawExpMax * 2 ^ p.mantWidth) ∧
    (classCode (classOf p l) = 4#3 ↔ p.rawExpMax * 2 ^ p.mantWidth < magnitudeBits p l) := by
  have hpos : 0 < 2 ^ p.mantWidth := by positivity
  have hmax : 2 ^ p.mantWidth < p.rawExpMax * 2 ^ p.mantWidth := by cases p <;> decide
  rw [classOf_eq]
  split_ifs with hzero hdenormal hnormal hinf <;> simp [classCode] <;> omega

/-- The class of a narrowed operand of any kind, by where its bits lie. -/
theorem classCode_narrow32_iff (k : Nat) (d : Word64) (b : Nat) (hb : (narrow32 k d).toNat % 2 ^ 31 = b) :
    (classCode (classOf .single (encodedLayout .single k d)) = 0#3 ↔ b = 0) ∧
    (classCode (classOf .single (encodedLayout .single k d)) = 1#3 ↔ b ≠ 0 ∧ b < 0x800000) ∧
    (classCode (classOf .single (encodedLayout .single k d)) = 2#3 ↔ ¬ b < 0x800000 ∧ b < 0x7F800000) ∧
    (classCode (classOf .single (encodedLayout .single k d)) = 3#3 ↔ b = 0x7F800000) ∧
    (classCode (classOf .single (encodedLayout .single k d)) = 4#3 ↔ 0x7F800000 < b) := by
  have h := classCode_classOf_iff .single (encodedLayout .single k d)
  rw [encodedLayout, magnitudeBits_single, hb] at h
  exact h

theorem narrow32_nan_toNat {k : Nat} {d : Word64} (h : IsNan64 d) :
    0x7F800000 < (narrow32 k d).toNat % 2 ^ 31 := by
  obtain ⟨hexp, hmant⟩ := isNan32_narrow32 k h
  rw [ne_eq, ← BitVec.toNat_inj] at hmant
  have hexp' := congrArg BitVec.toNat hexp
  simp only [BitVec.extractLsb'_toNat, Nat.shiftRight_eq_div_pow, BitVec.ofNat_eq_ofNat,
    BitVec.toNat_ofNat] at hmant hexp'
  omega

theorem toNat_infinity_iff (d : Word64) :
    d.extractLsb' 0 63 = 0x7FF0000000000000#63 ↔ magnitudeBits .double d = 0x7FF * 2 ^ 52 := by
  rw [← BitVec.toNat_inj, BitVec.extractLsb'_toNat, Nat.shiftRight_zero]
  rfl

/-- A pattern is a number, an infinity or a NaN (R16). -/
theorem operand_kinds (d : Word64) :
    (∃ v, value64 d = some v ∧ magnitudeBits .double d < 0x7FF * 2 ^ 52) ∨
    (value64 d = none ∧ magnitudeBits .double d = 0x7FF * 2 ^ 52) ∨
    (value64 d = none ∧ 0x7FF * 2 ^ 52 < magnitudeBits .double d) := by
  cases hv : value64 d with
  | some v => exact .inl ⟨v, rfl, (realValue_eq_some_iff.mp hv).1⟩
  | none =>
    have hnot : ¬ magnitudeBits .double d < 0x7FF * 2 ^ 52 := fun hlt => by
      cases hv.symm.trans (realValue_eq_some_iff.mpr ⟨hlt, rfl⟩)
    obtain heq | hlt := (not_lt.mp hnot).eq_or_lt
    · exact .inr (.inl ⟨rfl, heq.symm⟩)
    · exact .inr (.inr ⟨rfl, hlt⟩)

/-- The class of the narrowing at single precision, by the operand's magnitude (R65, R66, R78). -/
theorem classCode_encodedLayout_iff (k : Nat) (d : Word64) (c : BitVec 3)
    (hc : c = classCode (classOf .single (encodedLayout .single k d))) :
    (c = 0#3 ↔ ∃ v, value64 d = some v ∧ |v| ≤ zeroUpTo) ∧
    (c = 1#3 ↔ ∃ v, value64 d = some v ∧ zeroUpTo < |v| ∧ |v| < normalFrom) ∧
    (c = 2#3 ↔ ∃ v, value64 d = some v ∧ normalFrom ≤ |v| ∧ |v| < overflowAt) ∧
    (c = 3#3 ↔ d.extractLsb' 0 63 = 0x7FF0000000000000#63 ∨ ∃ v, value64 d = some v ∧ overflowAt ≤ |v|) ∧
    (c = 4#3 ↔ IsNan64 d) := by
  obtain ⟨b, hb⟩ : ∃ b, (narrow32 k d).toNat % 2 ^ 31 = b := ⟨_, rfl⟩
  obtain ⟨hzero, hdenormal, hnormal, hinf, hnan⟩ := classCode_narrow32_iff k d b hb
  rw [hc, hzero, hdenormal, hnormal, hinf, hnan, toNat_infinity_iff, isNan64_iff_magnitudeBits]
  obtain ⟨v, hv, hfinite⟩ | ⟨hv, hinfinite⟩ | ⟨hv, hlarge⟩ := operand_kinds d
  · obtain ⟨hle, hzeroUpTo, hnormalFrom, hoverflowAt⟩ := narrow32_thresholds k hv
    rw [hb] at hle hzeroUpTo hnormalFrom hoverflowAt
    have hzeroUpTo' : zeroUpTo < |v| ↔ b ≠ 0 := by rw [← not_le, ← hzeroUpTo]
    have hnormalFrom' : normalFrom ≤ |v| ↔ ¬ b < 0x800000 := by rw [← not_lt, ← hnormalFrom]
    have hoverflowAt' : overflowAt ≤ |v| ↔ ¬ b < 0x7F800000 := by rw [← not_lt, ← hoverflowAt]
    simp only [hv, Option.some.injEq, exists_eq_left', ← hzeroUpTo, ← hnormalFrom, ← hoverflowAt, hzeroUpTo',
      hnormalFrom', hoverflowAt', true_and]
    exact ⟨by omega, by omega⟩
  · have hbits := hb.symm.trans (narrow32_infinity_toNat k hinfinite)
    simp [hv, hbits, hinfinite]
  · have hbits := hb.symm.trans_gt (narrow32_nan_toNat (k := k) ((isNan64_iff_magnitudeBits d).mpr hlarge))
    simp only [hv, reduceCtorEq, false_and, exists_false, or_false, iff_false]
    exact ⟨by omega, by omega, by omega, by omega, by omega⟩

/-! ### The obligations -/

/-- Settles O38: `narrow32_value` compares magnitudes, and a value of the other sign is farther still. -/
theorem narrowingRoundsToNearestEven : Obligations.NarrowingRoundsToNearestEven := by
  intro k d v h hlt
  obtain ⟨b, hb, hbits, hy⟩ := narrow32_value k h hlt
  refine ⟨_, hy, fun x z hz => ?_⟩
  obtain ⟨-, rfl⟩ := value32_eq_some_iff.mp hz
  obtain ⟨hnear, htie⟩ := hb (x.toNat % 2 ^ 31)
  have hdist : |v - signFactor d.msb * magnitudeAt .single b| = |(|v|) - magnitudeAt .single b| := by
    rw [← abs_signFactor_sub_same d.msb (|v|), ← value64_eq_signed h]
  have hfar := abs_abs_sub_abs_le v (signFactor x.msb * magnitudeAt .single (x.toNat % 2 ^ 31))
  rw [abs_signFactor_mul _ (magnitudeAt_nonneg .single _)] at hfar
  refine ⟨hdist.trans_le (hnear.trans hfar), fun heq hne => getLsbD_zero_of_even ?_⟩
  rw [hbits]
  by_cases hj : x.toNat % 2 ^ 31 = b
  · have hsign : d.msb ≠ x.msb := fun hsame => hne (by rw [hj, hsame])
    have hopposite : |v - signFactor x.msb * magnitudeAt .single b| = |v| + magnitudeAt .single b := by
      rw [← abs_signFactor_sub_opposite hsign (abs_nonneg v) (magnitudeAt_nonneg .single b), ← value64_eq_signed h]
    rw [hdist, hj, hopposite] at heq
    by_contra hodd
    have hpos : 0 < magnitudeAt .single b := magnitudeAt_pos .single (by omega)
    have hvpos : 0 < |v| := by
      by_contra! hv
      have := hb.le_of_le (hv.trans_eq (magnitudeAt_zero .single).symm)
      omega
    exact absurd heq (abs_sub_lt_of_nonneg_of_lt hvpos.le (by linarith) hpos.le (by linarith)).ne
  · exact htie (le_antisymm hnear (hfar.trans_eq (heq.symm.trans hdist))) hj

/-- Settles O39: the overflow threshold is a midpoint, and MAXF is the pattern below it. -/
theorem narrowingOverflowBoundaries : Obligations.NarrowingOverflowBoundaries := by
  refine ⟨fun k d v h => ⟨fun hv => ?_, fun ⟨hmax, hlt⟩ => ?_⟩, ?_, ?_, ?_⟩
  · obtain ⟨hle, -, -, hfinite⟩ := narrow32_thresholds k h
    have hbits := le_antisymm hle (not_lt.mp (hfinite.not.mpr (not_lt.mpr hv)))
    exact narrow32_eq_ite h hbits (by decide) (by decide)
  · obtain ⟨b, hb, hbits, -⟩ := narrow32_value k h hlt
    have hle := Nat.le_of_lt_succ (hb.lt_infinity_iff.mpr hlt)
    have hge := hb.ge_of_ge (magnitudeAt_maxFinite.trans_le hmax)
    exact narrow32_eq_ite h (hbits.trans (le_antisymm hle hge)) (by decide) (by decide)
  · rw [value32_eq_some_iff, ← magnitudeAt_maxFinite]
    exact ⟨by decide, (one_mul _).symm⟩
  · rw [value64_of_pattern (k := 1149) (m := 0x1FFFFFE0000000) (by decide) (by decide) (by decide) (by decide)
      (by decide), maxFinite]
    norm_num
  · rw [value64_of_pattern (k := 1149) (m := 0x1FFFFFF0000000) (by decide) (by decide) (by decide) (by decide)
      (by decide), overflowAt]
    norm_num

/-- Settles O40: both underflow thresholds are midpoints, and the smallest normal is the pattern above the second. -/
theorem narrowingUnderflowBoundaries : Obligations.NarrowingUnderflowBoundaries := by
  intro k d v h _
  obtain ⟨-, hzero, hnormal, -⟩ := narrow32_thresholds k h
  refine ⟨fun hv => ?_, fun ⟨hlo, hhi⟩ => ⟨narrow32_msb_of_value64 h, ?_⟩, fun ⟨hlo, hhi⟩ => ?_,
    abs_le_zeroUpTo_of_denormal h⟩
  · exact narrow32_eq_ite h (hzero.mpr hv) (by decide) (by decide)
  · rw [BitVec.extractLsb'_toNat, Nat.shiftRight_zero]
    have hpos := hzero.not.mpr (not_le.mpr hlo)
    have hlt := hnormal.mpr hhi
    omega
  · obtain ⟨b, hb, hbits⟩ := narrow32_isNearestEven k h
    have hge := not_lt.mp (hb.lt_normal_iff.not.mpr (not_lt.mpr hlo))
    have hle := hb.le_of_le (hhi.le.trans_eq magnitudeAt_minNormal.symm)
    obtain rfl := le_antisymm hle hge
    exact narrow32_eq_ite h hbits (by decide) (by decide)

/-- Settles O41: an exact value is its own nearest pattern, and no two patterns denote the same. -/
theorem representableValuesNarrowExactly : Obligations.RepresentableValuesNarrowExactly := by
  refine ⟨fun k d x hnan h => ?_, fun k d d' hnan h h' => ?_⟩
  · obtain ⟨hsign, hbits⟩ := narrow32_of_denote_eq (k := k) hnan h
    exact word32_ext ((narrow32With_msb ((isNan64_iff_denote d).not.mpr hnan)).trans hsign) hbits
  · exact denote_injective (p := .double) d'.isLt d.isLt hnan (h'.trans h)

/-- Settles O42: the class is read off the narrowed bits, whose thresholds are those of the magnitude; at double
precision the layout is the operand. -/
theorem reportedClassFollowsTheMagnitude : Obligations.ReportedClassFollowsTheMagnitude :=
  ⟨fun s d hd => ⟨_, _, exec_written hd, rfl, classCode_encodedLayout_iff s.instNo d _ rfl⟩,
    fun _ _ _ hs hu => ⟨_, _, exec_written hs, exec_written hu, rfl⟩⟩

end Sys2Proof.Machine
end
